-- ==== Sys2Proof/Word.lean ====
section
/-! DEFINITION. The bit widths of the core: register bytes, instruction words and the operand fields of a word
(00_scope.md R8, R9; 30_encoding.md R91). -/

namespace Sys2Proof

/-- A 4-bit field: a register index `x` or `y`, a short immediate `n`, a key index (30_encoding.md R91). -/
abbrev Nibble := BitVec 4

/-- A byte: a general register, a timer, a memory byte, the immediate `kk`. -/
abbrev Byte := BitVec 8

/-- The 12-bit address operand `nnn` (30_encoding.md R91). -/
abbrev Addr12 := BitVec 12

/-- 16 bits: an instruction word, PC, I, a stack entry (00_scope.md R8). -/
abbrev Word := BitVec 16

end Sys2Proof
end

