-- ==== Sys2Proof/Syntax.lean ====
section
/-! DEFINITION. The 34 instructions (30_encoding.md R95, R96), one constructor per row of the opcode table, with
the operands the row's format names (R92). -/

namespace Sys2Proof

/-- One instruction with its decoded operands. -/
inductive Instr where
  /-- 00E0 CLS (43_display.md R180). -/
  | cls
  /-- 00EE RET (40_control_flow.md R120). -/
  | ret
  /-- 1nnn JP nnn (R121). -/
  | jp (nnn : Addr12)
  /-- 2nnn CALL nnn (R122). -/
  | call (nnn : Addr12)
  /-- 3xkk SE Vx, kk (R123). -/
  | seImm (x : Nibble) (kk : Byte)
  /-- 4xkk SNE Vx, kk (R124). -/
  | sneImm (x : Nibble) (kk : Byte)
  /-- 5xy0 SE Vx, Vy (R125). -/
  | seReg (x y : Nibble)
  /-- 6xkk LD Vx, kk (41_register_alu.md R140). -/
  | ldImm (x : Nibble) (kk : Byte)
  /-- 7xkk ADD Vx, kk (R141). -/
  | addImm (x : Nibble) (kk : Byte)
  /-- 8xy0 LD Vx, Vy (R142). -/
  | ldReg (x y : Nibble)
  /-- 8xy1 OR Vx, Vy (R143). -/
  | orReg (x y : Nibble)
  /-- 8xy2 AND Vx, Vy (R144). -/
  | andReg (x y : Nibble)
  /-- 8xy3 XOR Vx, Vy (R145). -/
  | xorReg (x y : Nibble)
  /-- 8xy4 ADD Vx, Vy (R146). -/
  | addReg (x y : Nibble)
  /-- 8xy5 SUB Vx, Vy (R147). -/
  | subReg (x y : Nibble)
  /-- 8xy6 SHR Vx, Vy (R148). -/
  | shr (x y : Nibble)
  /-- 8xy7 SUBN Vx, Vy (R149). -/
  | subn (x y : Nibble)
  /-- 8xyE SHL Vx, Vy (R150). -/
  | shl (x y : Nibble)
  /-- 9xy0 SNE Vx, Vy (40_control_flow.md R126). -/
  | sneReg (x y : Nibble)
  /-- Annn LD I, nnn (42_index_memory.md R160). -/
  | ldI (nnn : Addr12)
  /-- Bnnn JP V0, nnn (40_control_flow.md R127). -/
  | jpV0 (nnn : Addr12)
  /-- Cxkk RND Vx, kk (41_register_alu.md R151). -/
  | rnd (x : Nibble) (kk : Byte)
  /-- Dxyn DRW Vx, Vy, n (43_display.md R182). -/
  | drw (x y n : Nibble)
  /-- Ex9E SKP Vx (44_keypad_timers.md R190). -/
  | skp (x : Nibble)
  /-- ExA1 SKNP Vx (R191). -/
  | sknp (x : Nibble)
  /-- Fx07 LD Vx, DT (R193). -/
  | ldVxDT (x : Nibble)
  /-- Fx0A LD Vx, K (R192). -/
  | ldVxK (x : Nibble)
  /-- Fx15 LD DT, Vx (R194). -/
  | ldDTVx (x : Nibble)
  /-- Fx18 LD ST, Vx (R195). -/
  | ldSTVx (x : Nibble)
  /-- Fx1E ADD I, Vx (42_index_memory.md R161). -/
  | addI (x : Nibble)
  /-- Fx29 LD F, Vx (R162). -/
  | ldF (x : Nibble)
  /-- Fx33 LD B, Vx (R163). -/
  | ldB (x : Nibble)
  /-- Fx55 LD [I], Vx, the register dump (R165). -/
  | store (x : Nibble)
  /-- Fx65 LD Vx, [I], the register load (R166). -/
  | load (x : Nibble)
  deriving DecidableEq, Repr

/-- The row's mnemonic, letter for letter as spec/opcode_table.json spells it. -/
def Instr.mnemonic : Instr → String
  | .cls => "CLS"
  | .ret => "RET"
  | .jp _ => "JP_nnn"
  | .call _ => "CALL_nnn"
  | .seImm _ _ => "SE_Vx__kk"
  | .sneImm _ _ => "SNE_Vx__kk"
  | .seReg _ _ => "SE_Vx__Vy"
  | .ldImm _ _ => "LD_Vx__kk"
  | .addImm _ _ => "ADD_Vx__kk"
  | .ldReg _ _ => "LD_Vx__Vy"
  | .orReg _ _ => "OR_Vx__Vy"
  | .andReg _ _ => "AND_Vx__Vy"
  | .xorReg _ _ => "XOR_Vx__Vy"
  | .addReg _ _ => "ADD_Vx__Vy"
  | .subReg _ _ => "SUB_Vx__Vy"
  | .shr _ _ => "SHR_Vx__Vy"
  | .subn _ _ => "SUBN_Vx__Vy"
  | .shl _ _ => "SHL_Vx__Vy"
  | .sneReg _ _ => "SNE_Vx__Vy"
  | .ldI _ => "LD_I__nnn"
  | .jpV0 _ => "JP_V0__nnn"
  | .rnd _ _ => "RND_Vx__kk"
  | .drw _ _ _ => "DRW_Vx__Vy__n"
  | .skp _ => "SKP_Vx"
  | .sknp _ => "SKNP_Vx"
  | .ldVxDT _ => "LD_Vx__DT"
  | .ldVxK _ => "LD_Vx__K"
  | .ldDTVx _ => "LD_DT__Vx"
  | .ldSTVx _ => "LD_ST__Vx"
  | .addI _ => "ADD_I__Vx"
  | .ldF _ => "LD_F__Vx"
  | .ldB _ => "LD_B__Vx"
  | .store _ => "LD__I___Vx"
  | .load _ => "LD_Vx___I"

end Sys2Proof
end

