-- ==== Sys2Proof/Decode.lean ====
section
/-! DEFINITION. The fields of a word, the decoder (30_encoding.md R91, R94, R98), the opcode table (R95), the
encoder, and the host's view of the decoder. The numbers are the spec's table, most of it from general knowledge of
CHIP-8 (92_eei_decisions.md D9; PRESUMED by the spec, log 5). -/

namespace Sys2Proof

/-- `op`, bits 15..12 (30_encoding.md R91). -/
def opField (w : Word) : Nibble := w.extractLsb' 12 4

/-- `x`, bits 11..8 (R91). -/
def xField (w : Word) : Nibble := w.extractLsb' 8 4

/-- `y`, bits 7..4 (R91). -/
def yField (w : Word) : Nibble := w.extractLsb' 4 4

/-- `n`, bits 3..0 (R91). -/
def nField (w : Word) : Nibble := w.extractLsb' 0 4

/-- `kk`, bits 7..0 (R91). -/
def kkField (w : Word) : Byte := w.extractLsb' 0 8

/-- `nnn`, bits 11..0 (R91). -/
def nnnField (w : Word) : Addr12 := w.extractLsb' 0 12

/-- Why bytes do not decode, by name. -/
inductive DecodeError where
  /-- Fewer than the two bytes of an instruction (30_encoding.md R90). -/
  | truncated
  /-- A word that matches no row of R95 (R98): an unknown instruction. -/
  | unknownInstruction (w : Word)
  deriving DecidableEq, Repr

/-- Family 0: the whole word selects (30_encoding.md R94; strict by decision D10, log 6). -/
def decodeFamily0 (w : Word) : Except DecodeError Instr :=
  if w = 0x00E0#16 then .ok .cls
  else if w = 0x00EE#16 then .ok .ret
  else .error (.unknownInstruction w)

/-- Family 8: the low nibble selects (R94). -/
def decodeFamily8 (w : Word) : Except DecodeError Instr :=
  match (nField w).toNat with
  | 0x0 => .ok (.ldReg (xField w) (yField w))
  | 0x1 => .ok (.orReg (xField w) (yField w))
  | 0x2 => .ok (.andReg (xField w) (yField w))
  | 0x3 => .ok (.xorReg (xField w) (yField w))
  | 0x4 => .ok (.addReg (xField w) (yField w))
  | 0x5 => .ok (.subReg (xField w) (yField w))
  | 0x6 => .ok (.shr (xField w) (yField w))
  | 0x7 => .ok (.subn (xField w) (yField w))
  | 0xE => .ok (.shl (xField w) (yField w))
  | _ => .error (.unknownInstruction w)

/-- Family E: the low byte selects (R94). -/
def decodeFamilyE (w : Word) : Except DecodeError Instr :=
  match (kkField w).toNat with
  | 0x9E => .ok (.skp (xField w))
  | 0xA1 => .ok (.sknp (xField w))
  | _ => .error (.unknownInstruction w)

/-- Family F: the low byte selects (R94). -/
def decodeFamilyF (w : Word) : Except DecodeError Instr :=
  match (kkField w).toNat with
  | 0x07 => .ok (.ldVxDT (xField w))
  | 0x0A => .ok (.ldVxK (xField w))
  | 0x15 => .ok (.ldDTVx (xField w))
  | 0x18 => .ok (.ldSTVx (xField w))
  | 0x1E => .ok (.addI (xField w))
  | 0x29 => .ok (.ldF (xField w))
  | 0x33 => .ok (.ldB (xField w))
  | 0x55 => .ok (.store (xField w))
  | 0x65 => .ok (.load (xField w))
  | _ => .error (.unknownInstruction w)

/-- Decoding one word: a dispatch on the top nibble, and in families 0, 5, 8, 9, E, F on the rest
(30_encoding.md R94). Families 5 and 9 need a zero low nibble (R94; decision D10, log 6). -/
def decodeWord (w : Word) : Except DecodeError Instr :=
  match (opField w).toNat with
  | 0x0 => decodeFamily0 w
  | 0x1 => .ok (.jp (nnnField w))
  | 0x2 => .ok (.call (nnnField w))
  | 0x3 => .ok (.seImm (xField w) (kkField w))
  | 0x4 => .ok (.sneImm (xField w) (kkField w))
  | 0x5 => if nField w = 0#4 then .ok (.seReg (xField w) (yField w)) else .error (.unknownInstruction w)
  | 0x6 => .ok (.ldImm (xField w) (kkField w))
  | 0x7 => .ok (.addImm (xField w) (kkField w))
  | 0x8 => decodeFamily8 w
  | 0x9 => if nField w = 0#4 then .ok (.sneReg (xField w) (yField w)) else .error (.unknownInstruction w)
  | 0xA => .ok (.ldI (nnnField w))
  | 0xB => .ok (.jpV0 (nnnField w))
  | 0xC => .ok (.rnd (xField w) (kkField w))
  | 0xD => .ok (.drw (xField w) (yField w) (nField w))
  | 0xE => decodeFamilyE w
  | _ => decodeFamilyF w

/-- Decoding bytes as they stand in memory: two bytes, the high one first (30_encoding.md R90, 20_memory.md R62).
Answers the instruction and the bytes after it. -/
def decodeBytes : List Byte → Except DecodeError (Instr × List Byte)
  | hi :: lo :: rest =>
    match decodeWord (hi ++ lo) with
    | .ok i => .ok (i, rest)
    | .error e => .error e
  | _ => .error .truncated

/-- The word of an instruction, digit by digit from its pattern in 30_encoding.md R95 (formats of R92). -/
def encode : Instr → Word
  | .cls => 0x00E0#16
  | .ret => 0x00EE#16
  | .jp nnn => (0x1#4 ++ nnn : BitVec (4 + 12))
  | .call nnn => (0x2#4 ++ nnn : BitVec (4 + 12))
  | .seImm x kk => (0x3#4 ++ x ++ kk : BitVec (4 + 4 + 8))
  | .sneImm x kk => (0x4#4 ++ x ++ kk : BitVec (4 + 4 + 8))
  | .seReg x y => (0x5#4 ++ x ++ y ++ 0x0#4 : BitVec (4 + 4 + 4 + 4))
  | .ldImm x kk => (0x6#4 ++ x ++ kk : BitVec (4 + 4 + 8))
  | .addImm x kk => (0x7#4 ++ x ++ kk : BitVec (4 + 4 + 8))
  | .ldReg x y => (0x8#4 ++ x ++ y ++ 0x0#4 : BitVec (4 + 4 + 4 + 4))
  | .orReg x y => (0x8#4 ++ x ++ y ++ 0x1#4 : BitVec (4 + 4 + 4 + 4))
  | .andReg x y => (0x8#4 ++ x ++ y ++ 0x2#4 : BitVec (4 + 4 + 4 + 4))
  | .xorReg x y => (0x8#4 ++ x ++ y ++ 0x3#4 : BitVec (4 + 4 + 4 + 4))
  | .addReg x y => (0x8#4 ++ x ++ y ++ 0x4#4 : BitVec (4 + 4 + 4 + 4))
  | .subReg x y => (0x8#4 ++ x ++ y ++ 0x5#4 : BitVec (4 + 4 + 4 + 4))
  | .shr x y => (0x8#4 ++ x ++ y ++ 0x6#4 : BitVec (4 + 4 + 4 + 4))
  | .subn x y => (0x8#4 ++ x ++ y ++ 0x7#4 : BitVec (4 + 4 + 4 + 4))
  | .shl x y => (0x8#4 ++ x ++ y ++ 0xE#4 : BitVec (4 + 4 + 4 + 4))
  | .sneReg x y => (0x9#4 ++ x ++ y ++ 0x0#4 : BitVec (4 + 4 + 4 + 4))
  | .ldI nnn => (0xA#4 ++ nnn : BitVec (4 + 12))
  | .jpV0 nnn => (0xB#4 ++ nnn : BitVec (4 + 12))
  | .rnd x kk => (0xC#4 ++ x ++ kk : BitVec (4 + 4 + 8))
  | .drw x y n => (0xD#4 ++ x ++ y ++ n : BitVec (4 + 4 + 4 + 4))
  | .skp x => (0xE#4 ++ x ++ 0x9E#8 : BitVec (4 + 4 + 8))
  | .sknp x => (0xE#4 ++ x ++ 0xA1#8 : BitVec (4 + 4 + 8))
  | .ldVxDT x => (0xF#4 ++ x ++ 0x07#8 : BitVec (4 + 4 + 8))
  | .ldVxK x => (0xF#4 ++ x ++ 0x0A#8 : BitVec (4 + 4 + 8))
  | .ldDTVx x => (0xF#4 ++ x ++ 0x15#8 : BitVec (4 + 4 + 8))
  | .ldSTVx x => (0xF#4 ++ x ++ 0x18#8 : BitVec (4 + 4 + 8))
  | .addI x => (0xF#4 ++ x ++ 0x1E#8 : BitVec (4 + 4 + 8))
  | .ldF x => (0xF#4 ++ x ++ 0x29#8 : BitVec (4 + 4 + 8))
  | .ldB x => (0xF#4 ++ x ++ 0x33#8 : BitVec (4 + 4 + 8))
  | .store x => (0xF#4 ++ x ++ 0x55#8 : BitVec (4 + 4 + 8))
  | .load x => (0xF#4 ++ x ++ 0x65#8 : BitVec (4 + 4 + 8))

/-- The bytes of a word as memory holds them, high byte at the lower address (20_memory.md R62). -/
def wordBytes (w : Word) : List Byte := [w.extractLsb' 8 8, w.extractLsb' 0 8]

/-- One row of the opcode map (30_encoding.md R95). -/
structure OpcodeRow where
  /-- The row's mnemonic in spec/opcode_table.json. -/
  mnemonic : String
  /-- `match`. -/
  pattern : Word
  /-- `mask`: a word belongs to the row if and only if `w & mask = match`. -/
  mask : Word
  deriving DecidableEq, Repr

/-- The opcode map of 30_encoding.md R95, row by row. The decoder does not read it; that the two agree is a
statement of its own. -/
def opcodeTable : List OpcodeRow :=
  [⟨"CLS", 0x00E0#16, 0xFFFF#16⟩,
   ⟨"RET", 0x00EE#16, 0xFFFF#16⟩,
   ⟨"JP_nnn", 0x1000#16, 0xF000#16⟩,
   ⟨"CALL_nnn", 0x2000#16, 0xF000#16⟩,
   ⟨"SE_Vx__kk", 0x3000#16, 0xF000#16⟩,
   ⟨"SNE_Vx__kk", 0x4000#16, 0xF000#16⟩,
   ⟨"SE_Vx__Vy", 0x5000#16, 0xF00F#16⟩] ++
  [⟨"LD_Vx__kk", 0x6000#16, 0xF000#16⟩,
   ⟨"ADD_Vx__kk", 0x7000#16, 0xF000#16⟩,
   ⟨"LD_Vx__Vy", 0x8000#16, 0xF00F#16⟩,
   ⟨"OR_Vx__Vy", 0x8001#16, 0xF00F#16⟩,
   ⟨"AND_Vx__Vy", 0x8002#16, 0xF00F#16⟩,
   ⟨"XOR_Vx__Vy", 0x8003#16, 0xF00F#16⟩,
   ⟨"ADD_Vx__Vy", 0x8004#16, 0xF00F#16⟩] ++
  [⟨"SUB_Vx__Vy", 0x8005#16, 0xF00F#16⟩,
   ⟨"SHR_Vx__Vy", 0x8006#16, 0xF00F#16⟩,
   ⟨"SUBN_Vx__Vy", 0x8007#16, 0xF00F#16⟩,
   ⟨"SHL_Vx__Vy", 0x800E#16, 0xF00F#16⟩,
   ⟨"SNE_Vx__Vy", 0x9000#16, 0xF00F#16⟩,
   ⟨"LD_I__nnn", 0xA000#16, 0xF000#16⟩,
   ⟨"JP_V0__nnn", 0xB000#16, 0xF000#16⟩] ++
  [⟨"RND_Vx__kk", 0xC000#16, 0xF000#16⟩,
   ⟨"DRW_Vx__Vy__n", 0xD000#16, 0xF000#16⟩,
   ⟨"SKP_Vx", 0xE09E#16, 0xF0FF#16⟩,
   ⟨"SKNP_Vx", 0xE0A1#16, 0xF0FF#16⟩,
   ⟨"LD_Vx__DT", 0xF007#16, 0xF0FF#16⟩,
   ⟨"LD_Vx__K", 0xF00A#16, 0xF0FF#16⟩,
   ⟨"LD_DT__Vx", 0xF015#16, 0xF0FF#16⟩] ++
  [⟨"LD_ST__Vx", 0xF018#16, 0xF0FF#16⟩,
   ⟨"ADD_I__Vx", 0xF01E#16, 0xF0FF#16⟩,
   ⟨"LD_F__Vx", 0xF029#16, 0xF0FF#16⟩,
   ⟨"LD_B__Vx", 0xF033#16, 0xF0FF#16⟩,
   ⟨"LD__I___Vx", 0xF055#16, 0xF0FF#16⟩,
   ⟨"LD_Vx___I", 0xF065#16, 0xF0FF#16⟩]

/-- The first word of an instruction whose bits are `w`, numbered as the opcode table numbers them; bits above
`nbits` are zero. -/
def tableWord (nbits w : Nat) : Word := BitVec.ofNat 16 (w % 2 ^ nbits)

/-- What the decoder reads from the bytes of a table word, laid out as the hardware stores them. -/
def decodeTableWord (nbits w : Nat) : Option Instr :=
  match decodeBytes (wordBytes (tableWord nbits w)) with
  | .ok (i, _) => some i
  | .error _ => none

end Sys2Proof
end

