-- ==== Sys2Proof/Config.lean ====
section
/-! DEFINITION. What is fixed for the machine (00_scope.md R8), the font table (10_state.md R35), and the one
free value: the random byte of a step (41_register_alu.md R151, 60_exceptions.md R201). -/

namespace Sys2Proof

/-- MEM_SIZE (00_scope.md R8): addresses 0x000 to 0xFFF. -/
abbrev Config.memSize : Nat := 4096

/-- PROG_BASE (00_scope.md R8): PC after reset and the place LoadProgram writes to. -/
abbrev Config.progBase : Nat := 0x200

/-- PROG_MAX (00_scope.md R8): the longest image LoadProgram takes. -/
abbrev Config.progMax : Nat := 3584

/-- FONT_BASE (00_scope.md R8). -/
abbrev Config.fontBase : Nat := 0x50

/-- The length of FONT: 16 glyphs of GLYPH_BYTES = 5 bytes (00_scope.md R8). -/
abbrev Config.fontSize : Nat := 80

/-- Glyphs 0 to 7 of FONT (10_state.md R35). PRESUMED by the spec itself, which takes the customary CHIP-8 font
(log 4); unsafe for claims about glyph pixels. -/
def Config.fontLow : List Byte :=
  [0xF0, 0x90, 0x90, 0x90, 0xF0] ++ [0x20, 0x60, 0x20, 0x20, 0x70] ++
  [0xF0, 0x10, 0xF0, 0x80, 0xF0] ++ [0xF0, 0x10, 0xF0, 0x10, 0xF0] ++
  [0x90, 0x90, 0xF0, 0x10, 0x10] ++ [0xF0, 0x80, 0xF0, 0x10, 0xF0] ++
  [0xF0, 0x80, 0xF0, 0x90, 0xF0] ++ [0xF0, 0x10, 0x20, 0x40, 0x40]

/-- Glyphs 8 to F of FONT (10_state.md R35); as `Config.fontLow`. -/
def Config.fontHigh : List Byte :=
  [0xF0, 0x90, 0xF0, 0x90, 0xF0] ++ [0xF0, 0x90, 0xF0, 0x10, 0xF0] ++
  [0xF0, 0x90, 0xF0, 0x90, 0x90] ++ [0xE0, 0x90, 0xE0, 0x90, 0xE0] ++
  [0xF0, 0x80, 0x80, 0x80, 0xF0] ++ [0xE0, 0x90, 0x90, 0x90, 0xE0] ++
  [0xF0, 0x80, 0xF0, 0x80, 0xF0] ++ [0xF0, 0x80, 0xF0, 0x80, 0x80]

/-- FONT[0..79], a named constant with the customary default (10_state.md R35; log 4). -/
def Config.font : List Byte := Config.fontLow ++ Config.fontHigh

/-- The free random bytes: the `n`-th byte an RND draws when the host has put none on the step's input. The spec
puts it "under no law" (60_exceptions.md R201, 41_register_alu.md R151), so it has no body and nothing can be
proved of its values (DESIGN CHOICE of form, log 2; safe). -/
opaque Config.rnd : Nat → Byte

end Sys2Proof
end

