-- ==== Sys2Proof/Machine/State.lean ====
section
/-! DEFINITION. The state of the core (10_state.md R20), the faults it records (60_exceptions.md R204 to R207),
what a step can be refused for, and the state after Reset (10_state.md R39, 70_reset_and_hazards.md R240). -/

namespace Sys2Proof.Machine

/-- Main memory as (address, byte) cells in one canonical form: addresses strictly rising, and no cell equal to
what an unlisted address reads as (log 13). Its operations are in Machine/Ops.lean. -/
abbrev Memory := List Host.Cell

/-- The framebuffer: 32 rows of 64 cells, `fb[y][x]` (10_state.md R31, 43_display.md R181). -/
abbrev Framebuffer := Vector (Vector Bool 64) 32

/-- The kinds of fault (60_exceptions.md R204 to R207, R209), as the `fault` record of State holds them. A faulting
step is a next state with this record set, because the spec gives that state (log 1). So no step answers
`Outcome.fault`. -/
inductive Fault where
  /-- Raised by the fetch with PC above 0xFFE, and by DRW, LD B,Vx, LD [I],Vx and LD Vx,[I] when a byte of the access
  lies above 0xFFF (R205); `addr` is the lowest such address, 16 bits (R209). Safe: nothing is read or written. -/
  | outOfBounds (addr : Word)
  /-- Raised by CALL with SP = 16 (R206). Safe: nothing is pushed. -/
  | stackOverflow
  /-- Raised by RET with SP = 0 (R207). Safe: nothing is popped. -/
  | stackUnderflow
  deriving DecidableEq, Repr

/-- Why an operation has no meaning. -/
inductive Refusal where
  /-- An instruction exec has no meaning for, raised by exec's arm of that name; none is left. Safe. -/
  | notModelled (mnemonic : String)
  /-- A host operation other than Reset on a core that has never been reset (70_reset_and_hazards.md R241), raised by
  `applyOp`; no step raises it. Safe: the state before the first Reset has no meaning (log 17). -/
  | beforeReset
  deriving DecidableEq, Repr

/-- The complete state of the core (10_state.md R20), and the model's own two fields for the random input. -/
structure State where
  /-- V[0] to V[15]; VF is V[15] (10_state.md R21, R22). -/
  v : Vector Byte 16
  /-- The index register I (R24). -/
  i : Word
  /-- PC: between steps, the address of the next instruction (R25). -/
  pc : Word
  /-- SP: how many return addresses the call stack holds, 0 to 16 (R28). -/
  sp : Fin 17
  /-- The call stack's 16 entries (R27). -/
  stack : Vector Word 16
  /-- The delay timer DT (R29). -/
  dt : Byte
  /-- The sound timer ST (R30). -/
  st : Byte
  /-- The framebuffer (R31). -/
  fb : Framebuffer
  /-- The live key flags, true meaning pressed (R32). -/
  keys : Vector Bool 16
  /-- The snapshot of the key flags (R33). -/
  prevKeys : Vector Bool 16
  /-- Main memory (R34). -/
  mem : Memory
  /-- The fault record (R36). -/
  fault : Option Fault
  /-- MODEL'S OWN (log 2): the byte the host has put on the `rnd` input of the step (60_exceptions.md R201), if any. -/
  rndIn : Option Byte
  /-- MODEL'S OWN (log 2): how many free random bytes have been drawn so far. -/
  rndCount : Nat
  deriving DecidableEq, Repr

/-- The UnknownInstruction event: the word and the address it was fetched from (60_exceptions.md R203). It is an
output, not state (10_state.md R38; log 3). -/
structure UnknownReport where
  /-- The fetched word `w`. -/
  word : Word
  /-- The address `a` it was fetched from. -/
  addr : Word
  deriving DecidableEq, Repr

/-- The outcome of a step or of a meaning. -/
abbrev Result := Host.Outcome State Fault Refusal

/-- The state after Reset: every item at its value of 10_state.md R39. Memory lists nothing, because an unlisted
address reads as Reset leaves it (`initialByte` in Machine/Ops.lean). The last two fields are the model's own
(DESIGN CHOICE, log 2). -/
def State.reset : State where
  v := Vector.replicate 16 0#8
  i := 0x0000#16
  pc := BitVec.ofNat 16 Config.progBase
  sp := 0
  stack := Vector.replicate 16 0x0000#16
  dt := 0#8
  st := 0#8
  fb := Vector.replicate 32 (Vector.replicate 64 false)
  keys := Vector.replicate 16 false
  prevKeys := Vector.replicate 16 false
  mem := []
  fault := none
  rndIn := none
  rndCount := 0

end Sys2Proof.Machine
end

