-- ==== Sys2Proof/Machine/Ops.lean ====
section
/-! DEFINITION. The named operations: memory, the named updates of State, registers, the call stack, the cells of
the framebuffer, the key flags, the random input, the range check and raising a fault, moving PC, and the fetch. -/

namespace Sys2Proof.Machine

/-! ### Memory (20_memory.md) -/

/-- What an address that memory does not list reads as: the contents Reset leaves, FONT at 0x50 to 0x9F and zero
elsewhere (10_state.md R39, 20_memory.md R61; log 13). -/
def initialByte (a : Nat) : Byte :=
  if Config.fontBase ≤ a ∧ a < Config.fontBase + Config.fontSize then Config.font.getD (a - Config.fontBase) 0#8
  else 0#8

/-- The byte at an address. The callers check the range first (20_memory.md R66). -/
def Memory.read : Memory → Nat → Byte
  | [], a => initialByte a
  | (b, v) :: rest, a => if a = b then v else Memory.read rest a

/-- The cells without one address. -/
def Memory.erase (m : Memory) (a : Nat) : Memory := m.filter fun c => decide (c.1 ≠ a)

/-- The cells with one more, in its place by address. -/
def Memory.insert : Memory → Nat → Byte → Memory
  | [], a, v => [(a, v)]
  | (b, w) :: rest, a, v =>
    if a < b then (a, v) :: (b, w) :: rest
    else if a = b then (a, v) :: rest
    else (b, w) :: Memory.insert rest a v

/-- A write changes exactly the addressed byte (20_memory.md R68). There is no byte at or above 0x1000 to change (R66);
the callers never ask for one. Writing what the unlisted address reads as removes the cell. -/
def Memory.write (m : Memory) (a : Nat) (v : Byte) : Memory :=
  if a < Config.memSize then
    if v = initialByte a then Memory.erase m a else Memory.insert m a v
  else m

/-- Writes at ascending addresses (20_memory.md R63, R67). -/
def Memory.writeList : Memory → Nat → List Byte → Memory
  | m, _, [] => m
  | m, a, b :: bs => Memory.writeList (Memory.write m a b) (a + 1) bs

/-- The canonical form: addresses strictly rising, inside the memory, and no cell that says what an unlisted address
would read as anyway (log 13). -/
abbrev Memory.wf (m : Memory) : Prop :=
  m.Pairwise (fun c d => c.1 < d.1) ∧ ∀ c ∈ m, c.1 < Config.memSize ∧ c.2 ≠ initialByte c.1

/-! ### Named updates of State, one field each -/

/-- Replaces the register file. -/
def State.setV (s : State) (v : Vector Byte 16) : State := { s with v := v }
/-- Replaces I. -/
def State.setI (s : State) (a : Word) : State := { s with i := a }
/-- Replaces PC. -/
def State.setPc (s : State) (a : Word) : State := { s with pc := a }
/-- Replaces SP. -/
def State.setSp (s : State) (n : Fin 17) : State := { s with sp := n }
/-- Replaces the stack entries. -/
def State.setStack (s : State) (e : Vector Word 16) : State := { s with stack := e }
/-- Replaces DT. -/
def State.setDt (s : State) (b : Byte) : State := { s with dt := b }
/-- Replaces ST. -/
def State.setSt (s : State) (b : Byte) : State := { s with st := b }
/-- Replaces the framebuffer. -/
def State.setFb (s : State) (f : Framebuffer) : State := { s with fb := f }
/-- Replaces the live key flags. -/
def State.setKeys (s : State) (k : Vector Bool 16) : State := { s with keys := k }
/-- Replaces the key snapshot. -/
def State.setPrevKeys (s : State) (k : Vector Bool 16) : State := { s with prevKeys := k }
/-- Replaces memory. -/
def State.setMem (s : State) (m : Memory) : State := { s with mem := m }
/-- Replaces the fault record. -/
def State.setFault (s : State) (f : Option Fault) : State := { s with fault := f }
/-- Replaces the byte on the random input. -/
def State.setRndIn (s : State) (r : Option Byte) : State := { s with rndIn := r }
/-- Replaces the count of free random bytes drawn. -/
def State.setRndCount (s : State) (n : Nat) : State := { s with rndCount := n }

/-! ### Registers (10_state.md R21) -/

/-- `V[x]`. -/
def State.reg (s : State) (x : Nibble) : Byte := s.v[x.toNat]

/-- `V[x] <- b`. -/
def State.setReg (s : State) (x : Nibble) (b : Byte) : State := s.setV (s.v.set x.toNat b)

/-- The index of VF, the flag (10_state.md R22). -/
def flagReg : Nibble := 0xF#4

/-! ### Moving PC (60_exceptions.md R200) -/

/-- The fetch's advance: PC moves past the instruction's two bytes before the rest of the instruction runs (R200,
10_state.md R25). A meaning starts from the state with PC at its own instruction and does this itself (log 14). -/
def State.advance (s : State) : State := s.setPc (s.pc + 2#16)

/-- Advance, and by 2 more when the condition holds: the skip of 40_control_flow.md R123 to R126 and
44_keypad_timers.md R190, R191. -/
def State.skipIf (s : State) (c : Bool) : State :=
  if c then s.advance.setPc (s.advance.pc + 2#16) else s.advance

/-! ### Faults (60_exceptions.md R204) -/

/-- Raising a fault: nothing in the state changes but the fault record, PC included, which still holds the address
of the instruction (R204). The core is halted from here on (`State.halted`). -/
def raise (f : Fault) (s : State) : Result := .next (s.setFault (some f))

/-- The core is halted while `fault` is not None (R204). -/
def State.halted (s : State) : Bool := s.fault.isSome

/-- Every byte of an access of `len` bytes at `base` lies in memory, over unbounded integers (20_memory.md R65, R66). -/
def rangeOk (base : Word) (len : Nat) : Bool := decide (len = 0 ∨ base.toNat + len ≤ Config.memSize)

/-- The lowest address of a range from `base` that lies above 0xFFF: max(base, 0x1000) (R66, 60_exceptions.md R205). -/
def lowestBad (base : Word) : Word := if base.toNat < Config.memSize then 0x1000#16 else base

/-- The range check made before anything is written (20_memory.md R66, 42_index_memory.md R164): goes on if the range
lies in memory, else raises OutOfBounds. -/
def inRange (base : Word) (len : Nat) (s : State) (go : Result) : Result :=
  if rangeOk base len then go else raise (.outOfBounds (lowestBad base)) s

/-! ### The call stack (10_state.md R27, R28) -/

/-- `stack[j]`; j is always below 16 where the machine reads it. -/
def State.stackAt (s : State) (j : Nat) : Word := if h : j < 16 then s.stack[j] else 0#16

/-- `stack[SP] <- a ; SP <- SP + 1`, for SP below 16 (40_control_flow.md R122). -/
def State.push (s : State) (a : Word) : State :=
  (s.setStack (s.stack.setIfInBounds s.sp.val a)).setSp (s.sp + 1)

/-- `SP <- SP - 1`, for SP above 0 (40_control_flow.md R120). The entry keeps its value. -/
def State.pop (s : State) : State := s.setSp (s.sp - 1)

/-! ### The framebuffer (43_display.md R181) -/

/-- The cell `fb[y][x]`; false outside the 64 by 32 cells, where the machine never looks. -/
def Framebuffer.cell (f : Framebuffer) (y x : Nat) : Bool :=
  if h : y < 32 ∧ x < 64 then (f[y]'h.1)[x]'h.2 else false

/-- `fb[y][x] <- b`; nothing outside the cells. -/
def Framebuffer.setCell (f : Framebuffer) (y x : Nat) (b : Bool) : Framebuffer :=
  if h : y < 32 then f.set y ((f[y]).setIfInBounds x b) else f

/-- Every cell 0. -/
def Framebuffer.clear : Framebuffer := Vector.replicate 32 (Vector.replicate 64 false)

/-- The 2048 cells in linear order, cell (x, y) at 64·y + x (43_display.md R181, 60_exceptions.md R224). -/
def Framebuffer.cells (f : Framebuffer) : List Bool := (List.range 2048).map fun k => f.cell (k / 64) (k % 64)

/-! ### Key flags (10_state.md R32, R33) -/

/-- `keys[k]`. -/
def State.key (s : State) (k : Nibble) : Bool := s.keys[k.toNat]

/-- `prev_keys[k]`. -/
def State.prevKey (s : State) (k : Nibble) : Bool := s.prevKeys[k.toNat]

/-- The 16 key indices, ascending. -/
def allKeys : List Nibble := (List.range 16).map (BitVec.ofNat 4)

/-- The lowest key with a release edge: down in the snapshot, up now (44_keypad_timers.md R192; lowest by decision
D12, log 7). -/
def State.releasedKey (s : State) : Option Nibble := allKeys.find? fun k => s.prevKey k && !s.key k

/-! ### The random input (60_exceptions.md R201) -/

/-- `rnd`: the byte the host has put on the step's input, else the next free byte (log 2). -/
def State.rndByte (s : State) : Byte :=
  match s.rndIn with
  | some r => r
  | none => Config.rnd s.rndCount

/-- The state after `rnd` has been used: the input is empty, or one more free byte is drawn (log 2). -/
def State.useRnd (s : State) : State :=
  match s.rndIn with
  | some _ => s.setRndIn none
  | none => s.setRndCount (s.rndCount + 1)

/-! ### The fetch (60_exceptions.md R200) -/

/-- The word at PC: `mem[a] << 8 | mem[a+1]` (20_memory.md R62). -/
def State.fetchWord (s : State) : Word :=
  (s.mem.read s.pc.toNat ++ s.mem.read (s.pc.toNat + 1) : BitVec (8 + 8))

/-- An unknown word: a no-op but for PC (60_exceptions.md R203); the report is `reportOf` (log 3). -/
def unknownWord (s : State) : Result := .next s.advance

/-- What a fetch needs before it reads anything: no recorded fault, and PC where two bytes exist (R200). A state that
lacks one of them is given it: fault None, PC at the program base. For `State.withFetchWord` only (log 18). -/
def State.readyToFetch (s : State) : State :=
  (s.setFault none).setPc (if rangeOk s.pc 2 then s.pc else BitVec.ofNat 16 Config.progBase)

end Sys2Proof.Machine
end

