-- ==== Sys2Proof/Machine/Operands.lean ====
section
/-! DEFINITION. The operand forms: the zero-extended address operand, the glyph address, the decimal digits, the
sprite origin, the key index, the first registers of the file. -/

namespace Sys2Proof.Machine

/-- `zext_16(nnn)` (30_encoding.md R93). -/
def addrOperand (nnn : Addr12) : Word := nnn.setWidth 16

/-- `zext_16(V[x])` (42_index_memory.md R161, 40_control_flow.md R127). -/
def byteOperand (b : Byte) : Word := b.setWidth 16

/-- `0x50 + 5 * zext_16(V[x])`, all 8 bits, no mask (42_index_memory.md R162; decision D13, log 8). -/
def glyphAddr (b : Byte) : Word := BitVec.ofNat 16 Config.fontBase + 5#16 * byteOperand b

/-- Hundreds, tens and units of a byte, one byte each (42_index_memory.md R163). -/
def decimalDigits (b : Byte) : List Byte :=
  [BitVec.ofNat 8 (b.toNat / 100), BitVec.ofNat 8 (b.toNat / 10 % 10), BitVec.ofNat 8 (b.toNat % 10)]

/-- `V[x] & 0x0F`, the key a key test names (44_keypad_timers.md R196). -/
def keyOperand (b : Byte) : Nibble := b.setWidth 4

/-- `V[x] mod 64`, the origin's column (43_display.md R182). -/
def originX (b : Byte) : Nat := b.toNat % 64

/-- `V[y] mod 32`, the origin's row (43_display.md R182). -/
def originY (b : Byte) : Nat := b.toNat % 32

/-- V[0] to V[x], in order (42_index_memory.md R165). -/
def firstRegs (s : State) (x : Nibble) : List Byte := s.v.toList.take (x.toNat + 1)

/-- The register file after V[0] to V[x] are loaded from memory at `a` (42_index_memory.md R166). -/
def loadedRegs (s : State) (a : Nat) (x : Nibble) : Vector Byte 16 :=
  Vector.ofFn fun j : Fin 16 => if j.val ≤ x.toNat then s.mem.read (a + j.val) else s.v[j.val]

end Sys2Proof.Machine
end

