-- ==== Sys2Proof/Machine/ControlFlow.lean ====
section
/-! DEFINITION. Control transfer (40_control_flow.md): RET, JP, CALL, the four register skips, JP V0. -/

namespace Sys2Proof.Machine

/-- RET (40_control_flow.md R120). -/
def execRet (s : State) : Result :=
  if s.sp.val = 0 then raise .stackUnderflow s
  else .next (s.advance.pop.setPc (s.stackAt (s.sp.val - 1)))

/-- JP nnn (R121). -/
def execJp (nnn : Addr12) (s : State) : Result := .next (s.advance.setPc (addrOperand nnn))

/-- CALL nnn (R122): pushes the advanced PC. -/
def execCall (nnn : Addr12) (s : State) : Result :=
  if s.sp.val = 16 then raise .stackOverflow s
  else .next ((s.advance.push s.advance.pc).setPc (addrOperand nnn))

/-- SE Vx, kk (R123). -/
def execSeImm (x : Nibble) (kk : Byte) (s : State) : Result := .next (s.skipIf (s.reg x == kk))

/-- SNE Vx, kk (R124). -/
def execSneImm (x : Nibble) (kk : Byte) (s : State) : Result := .next (s.skipIf (s.reg x != kk))

/-- SE Vx, Vy (R125). -/
def execSeReg (x y : Nibble) (s : State) : Result := .next (s.skipIf (s.reg x == s.reg y))

/-- SNE Vx, Vy (R126). -/
def execSneReg (x y : Nibble) (s : State) : Result := .next (s.skipIf (s.reg x != s.reg y))

/-- JP V0, nnn (R127): the 16-bit sum, no mask; always V0 (decision D32, log 15). -/
def execJpV0 (nnn : Addr12) (s : State) : Result :=
  .next (s.advance.setPc (addrOperand nnn + byteOperand (s.reg 0#4)))

end Sys2Proof.Machine
end

