-- ==== Sys2Proof/Machine/Flags.lean ====
section
/-! DEFINITION. VF, the only flag (10_state.md R22): the values the flag-writing instructions give it, and the
order of result and flag (41_register_alu.md R152). -/

namespace Sys2Proof.Machine

/-- A flag is the byte 0x00 or 0x01 (10_state.md R22). -/
def flagByte (b : Bool) : Byte := if b then 1#8 else 0#8

/-- Carry out of the 8-bit sum (41_register_alu.md R146). -/
def carryFlag (a b : Byte) : Byte := flagByte (decide (a.toNat + b.toNat > 255))

/-- No borrow in `a - b`, equality included (R147, R149). -/
def noBorrowFlag (a b : Byte) : Byte := flagByte (decide (a.toNat ≥ b.toNat))

/-- The bit a right shift drops (R148). -/
def lowBitFlag (b : Byte) : Byte := flagByte (b.getLsbD 0)

/-- The bit a left shift drops (R150). -/
def highBitFlag (b : Byte) : Byte := flagByte (b.getLsbD 7)

/-- Result into V[x], then the flag into VF, last: with x = F the flag stands (R152; decision D8, log 9). Both values
are computed by the caller from the state before either write. -/
def State.setRegAndFlag (s : State) (x : Nibble) (result flag : Byte) : State :=
  (s.setReg x result).setReg flagReg flag

end Sys2Proof.Machine
end

