-- ==== Sys2Proof/Machine/Display.lean ====
section
/-! DEFINITION. Display instructions (43_display.md): CLS and DRW, the latter by the loops of R182. -/

namespace Sys2Proof.Machine

/-- CLS (43_display.md R180). -/
def execCls (s : State) : Result := .next (s.advance.setFb Framebuffer.clear)

/-- One set sprite bit: the cell is toggled, and a cell that was 1 is a collision (R182). The pair is the framebuffer
and the collision so far. -/
def toggleCell (y x : Nat) (p : Framebuffer × Bool) : Framebuffer × Bool :=
  (p.1.setCell y x (!p.1.cell y x), p.2 || p.1.cell y x)

/-- The column loop of R182: bit 7 of the sprite byte at the origin column (R181; decision D14, log 10), left at the
first column past 63. -/
def drawCols (b : Byte) (y ox : Nat) : List Nat → Framebuffer × Bool → Framebuffer × Bool
  | [], p => p
  | c :: cs, p =>
    if ox + c > 63 then p
    else drawCols b y ox cs (if b.getLsbD (7 - c) then toggleCell y (ox + c) p else p)

/-- The row loop of R182: one sprite byte a row, left at the first row past 31. -/
def drawRows (m : Memory) (a oy ox : Nat) : List Nat → Framebuffer × Bool → Framebuffer × Bool
  | [], p => p
  | r :: rs, p =>
    if oy + r > 31 then p
    else drawRows m a oy ox rs (drawCols (m.read (a + r)) (oy + r) ox (List.range 8) p)

/-- The framebuffer and the collision after drawing n rows from memory at `a` (R182). -/
def drawSprite (m : Memory) (a oy ox n : Nat) (f : Framebuffer) : Framebuffer × Bool :=
  drawRows m a oy ox (List.range n) (f, false)

/-- DRW Vx, Vy, n (R182): the origin is read before VF is written (decision D8, log 9); the range check covers all n
bytes and none when n = 0 (decision D15, log 11). -/
def execDrw (x y n : Nibble) (s : State) : Result :=
  inRange s.i n.toNat s
    (.next ((s.advance.setFb
        (drawSprite s.mem s.i.toNat (originY (s.reg y)) (originX (s.reg x)) n.toNat s.fb).1).setReg flagReg
      (flagByte (drawSprite s.mem s.i.toNat (originY (s.reg y)) (originX (s.reg x)) n.toNat s.fb).2)))

end Sys2Proof.Machine
end

