-- ==== Sys2Proof/Machine/IndexMemory.lean ====
section
/-! DEFINITION. Index register and memory instructions (42_index_memory.md). -/

namespace Sys2Proof.Machine

/-- LD I, nnn (42_index_memory.md R160). -/
def execLdI (nnn : Addr12) (s : State) : Result := .next (s.advance.setI (addrOperand nnn))

/-- ADD I, Vx (R161): modulo 65536, no flag (decision D22, log 15). -/
def execAddI (x : Nibble) (s : State) : Result := .next (s.advance.setI (s.i + byteOperand (s.reg x)))

/-- LD F, Vx (R162). -/
def execLdF (x : Nibble) (s : State) : Result := .next (s.advance.setI (glyphAddr (s.reg x)))

/-- LD B, Vx (R163): I unchanged. -/
def execLdB (x : Nibble) (s : State) : Result :=
  inRange s.i 3 s (.next (s.advance.setMem (s.mem.writeList s.i.toNat (decimalDigits (s.reg x)))))

/-- I after a dump or a load of V[0] to V[x]: I + x + 1 (R165, R166). -/
def advancedI (s : State) (x : Nibble) : Word := s.i + BitVec.ofNat 16 (x.toNat + 1)

/-- LD [I], Vx (R165), the register dump. -/
def execStore (x : Nibble) (s : State) : Result :=
  inRange s.i (x.toNat + 1) s
    (.next ((s.advance.setMem (s.mem.writeList s.i.toNat (firstRegs s x))).setI (advancedI s x)))

/-- LD Vx, [I] (R166), the register load. -/
def execLoad (x : Nibble) (s : State) : Result :=
  inRange s.i (x.toNat + 1) s
    (.next ((s.advance.setV (loadedRegs s s.i.toNat x)).setI (advancedI s x)))

end Sys2Proof.Machine
end

