-- ==== Sys2Proof/Machine/KeypadTimers.lean ====
section
/-! DEFINITION. Keypad and timer instructions (44_keypad_timers.md). -/

namespace Sys2Proof.Machine

/-- SKP Vx (44_keypad_timers.md R190, R196). -/
def execSkp (x : Nibble) (s : State) : Result := .next (s.skipIf (s.key (keyOperand (s.reg x))))

/-- SKNP Vx (R191, R196). -/
def execSknp (x : Nibble) (s : State) : Result := .next (s.skipIf (!s.key (keyOperand (s.reg x))))

/-- LD Vx, K (R192), one attempt: the snapshot is refreshed in either case; with a release edge V[x] receives the key,
without one PC goes back to this instruction. -/
def execLdVxK (x : Nibble) (s : State) : Result :=
  match s.releasedKey with
  | some k => .next ((s.advance.setPrevKeys s.keys).setReg x (k.setWidth 8))
  | none => .next ((s.advance.setPrevKeys s.keys).setPc (s.advance.pc - 2#16))

/-- LD Vx, DT (R193). -/
def execLdVxDT (x : Nibble) (s : State) : Result := .next (s.advance.setReg x s.dt)

/-- LD DT, Vx (R194). -/
def execLdDTVx (x : Nibble) (s : State) : Result := .next (s.advance.setDt (s.reg x))

/-- LD ST, Vx (R195). -/
def execLdSTVx (x : Nibble) (s : State) : Result := .next (s.advance.setSt (s.reg x))

end Sys2Proof.Machine
end

