-- ==== Sys2Proof/Machine/RegisterAlu.lean ====
section
/-! DEFINITION. Register, arithmetic, logic and random instructions (41_register_alu.md). Every source is read from
the state before the instruction; the flag is written last (R152). -/

namespace Sys2Proof.Machine

/-- LD Vx, kk (41_register_alu.md R140). -/
def execLdImm (x : Nibble) (kk : Byte) (s : State) : Result := .next (s.advance.setReg x kk)

/-- ADD Vx, kk (R141): wraps, no flag. -/
def execAddImm (x : Nibble) (kk : Byte) (s : State) : Result := .next (s.advance.setReg x (s.reg x + kk))

/-- LD Vx, Vy (R142). -/
def execLdReg (x y : Nibble) (s : State) : Result := .next (s.advance.setReg x (s.reg y))

/-- OR Vx, Vy (R143): VF cleared. -/
def execOrReg (x y : Nibble) (s : State) : Result :=
  .next (s.advance.setRegAndFlag x (s.reg x ||| s.reg y) 0#8)

/-- AND Vx, Vy (R144): VF cleared. -/
def execAndReg (x y : Nibble) (s : State) : Result :=
  .next (s.advance.setRegAndFlag x (s.reg x &&& s.reg y) 0#8)

/-- XOR Vx, Vy (R145): VF cleared. -/
def execXorReg (x y : Nibble) (s : State) : Result :=
  .next (s.advance.setRegAndFlag x (s.reg x ^^^ s.reg y) 0#8)

/-- ADD Vx, Vy (R146): VF is the carry out. -/
def execAddReg (x y : Nibble) (s : State) : Result :=
  .next (s.advance.setRegAndFlag x (s.reg x + s.reg y) (carryFlag (s.reg x) (s.reg y)))

/-- SUB Vx, Vy (R147): VF is no borrow. -/
def execSubReg (x y : Nibble) (s : State) : Result :=
  .next (s.advance.setRegAndFlag x (s.reg x - s.reg y) (noBorrowFlag (s.reg x) (s.reg y)))

/-- SHR Vx, Vy (R148): V[y] shifted right into V[x]; V[x] is not read. -/
def execShr (x y : Nibble) (s : State) : Result :=
  .next (s.advance.setRegAndFlag x (s.reg y >>> 1) (lowBitFlag (s.reg y)))

/-- SUBN Vx, Vy (R149): V[y] - V[x], the flag from the values before the write (decision D7, log 9). -/
def execSubn (x y : Nibble) (s : State) : Result :=
  .next (s.advance.setRegAndFlag x (s.reg y - s.reg x) (noBorrowFlag (s.reg y) (s.reg x)))

/-- SHL Vx, Vy (R150): V[y] shifted left into V[x]; V[x] is not read. -/
def execShl (x y : Nibble) (s : State) : Result :=
  .next (s.advance.setRegAndFlag x (s.reg y <<< 1) (highBitFlag (s.reg y)))

/-- RND Vx, kk (R151): the step's random byte, masked (log 2). -/
def execRnd (x : Nibble) (kk : Byte) (s : State) : Result :=
  .next (s.useRnd.advance.setReg x (s.rndByte &&& kk))

end Sys2Proof.Machine
end

