-- ==== Sys2Proof/Machine/Step.lean ====
section
/-! DEFINITION. Step (60_exceptions.md R200): halt test, fetch range check, fetch, decode, execute, in that order
(R210). -/

namespace Sys2Proof.Machine

/-- Decode a fetched word and execute it, or pass over an unknown word (R200, R203). -/
def runWord (w : Word) (s : State) : Result :=
  match decodeWord w with
  | .ok i => exec i s
  | .error _ => unknownWord s

/-- One fetch-decode-execute cycle (R200). A halted core returns unchanged. PC is advanced by the executed
instruction itself (log 14). -/
def step (s : State) : Host.Outcome State Fault Refusal :=
  if s.halted then .next s
  else inRange s.pc 2 s (runWord s.fetchWord s)

/-- The state with a table word stored where the next step fetches (log 18). -/
def State.withFetchWord (s : State) (nbits w : Nat) : State :=
  s.readyToFetch.setMem (s.readyToFetch.mem.writeList s.readyToFetch.pc.toNat (wordBytes (tableWord nbits w)))

end Sys2Proof.Machine
end

