-- ==== Sys2Proof/Machine/HostOps.lean ====
section
/-! DEFINITION. The host's operations on the core (60_exceptions.md R220 to R226, R201 to R203, R208;
70_reset_and_hazards.md R240, R241), each an atomic transition of the state (log 16, log 21). -/

namespace Sys2Proof.Machine

/-- The operations of the host, and no others (60_exceptions.md R220, R226). -/
inductive HostOp where
  /-- Reset (70_reset_and_hazards.md R240). -/
  | reset
  /-- LoadProgram(bytes) (60_exceptions.md R223). -/
  | loadProgram (image : List Byte)
  /-- Step(rnd) (R200, R201). -/
  | step (rnd : Byte)
  /-- TickTimers (R221). -/
  | tickTimers
  /-- SetKey(k, pressed) (R222). -/
  | setKey (k : Nibble) (pressed : Bool)
  /-- ReadFramebuffer (R224). -/
  | readFramebuffer
  /-- ReadTimers (R225). -/
  | readTimers
  deriving DecidableEq, Repr

/-- What the host gets back (60_exceptions.md R226). -/
inductive Reply where
  /-- Nothing. -/
  | done
  /-- LoadProgram succeeded. -/
  | loaded
  /-- LoadError: the image is too long (R208). -/
  | loadError
  /-- A step ran, with the UnknownInstruction event it emitted, if any (R202, R203). -/
  | stepped (report : Option UnknownReport)
  /-- The 2048 cells (R224). -/
  | framebuffer (cells : List Bool)
  /-- ST, DT, and the fault record with its code (R225, R209). -/
  | timers (st dt : Byte) (code : Nat) (fault : Option Fault)
  deriving DecidableEq, Repr

/-- The code of the host-visible fault output (60_exceptions.md R209, its table; decision D6, log 1). -/
def faultCode : Option Fault → Nat
  | none => 0
  | some (.outOfBounds _) => 1
  | some .stackOverflow => 2
  | some .stackUnderflow => 3

/-- One timer's tick: down by one, floored at zero (60_exceptions.md R221). -/
def tickDown (b : Byte) : Byte := if b = 0#8 then 0#8 else b - 1#8

/-- TickTimers (R221); it works on a halted core too (R204). -/
def tickTimers (s : State) : State := (s.setDt (tickDown s.dt)).setSt (tickDown s.st)

/-- SetKey (R222): the snapshot is not touched. -/
def setKey (k : Nibble) (pressed : Bool) (s : State) : State := s.setKeys (s.keys.set k.toNat pressed)

/-- Whether LoadProgram takes an image (R223, R208). -/
def imageFits (image : List Byte) : Bool := decide (image.length ≤ Config.progMax)

/-- LoadProgram's writes, for an image that fits (R223): memory from 0x200 up, nothing else. -/
def loadImage (image : List Byte) (s : State) : State := s.setMem (s.mem.writeList Config.progBase image)

/-- The UnknownInstruction event the next step at `s` emits, if any (60_exceptions.md R200, R203): the word and the
address it is fetched from. Not kept in the core (10_state.md R38; log 3). -/
def reportOf (s : State) : Option UnknownReport :=
  if s.halted then none
  else if rangeOk s.pc 2 then
    match decodeWord s.fetchWord with
    | .ok _ => none
    | .error _ => some ⟨s.fetchWord, s.pc⟩
  else none

/-- Step(rnd) (R200, R201): the byte is on the input for this step only; a step that does not use it leaves it
unread and it is gone (41_register_alu.md R151). -/
def stepWith (rnd : Byte) (s : State) : Result :=
  match step (s.setRndIn (some rnd)) with
  | .next t => .next (t.setRndIn none)
  | .fault f => .fault f
  | .refused r => .refused r

/-- Reset on a core (70_reset_and_hazards.md R240). It "does not touch the random source" (R240, 10_state.md R37): the
count of free bytes drawn goes on (log 2, log 20). -/
def resetCore (s : State) : State := State.reset.setRndCount s.rndCount

/-- A core as the host holds it: none before the first Reset (70_reset_and_hazards.md R241; log 17). -/
abbrev Powered := Option State

/-- The answer to a host operation: the new core and the reply. -/
abbrev OpResult := Host.Outcome (Powered × Reply) Fault Refusal

/-- An operation on a core that has been reset before. -/
def applyAfterReset (op : HostOp) (s : State) : OpResult :=
  match op with
  | .reset => .next (some (resetCore s), .done)
  | .loadProgram image => if imageFits image then .next (some (loadImage image s), .loaded) else .next (some s, .loadError)
  | .step rnd =>
    match stepWith rnd s with
    | .next t => .next (some t, .stepped (reportOf s))
    | .fault f => .fault f
    | .refused r => .refused r
  | .tickTimers => .next (some (tickTimers s), .done)
  | .setKey k pressed => .next (some (setKey k pressed s), .done)
  | .readFramebuffer => .next (some s, .framebuffer s.fb.cells)
  | .readTimers => .next (some s, .timers s.st s.dt (faultCode s.fault) s.fault)

/-- One operation of the host. Before the first Reset every other operation is refused (70_reset_and_hazards.md R241). -/
def applyOp (op : HostOp) : Powered → OpResult
  | some s => applyAfterReset op s
  | none =>
    match op with
    | .reset => .next (some State.reset, .done)
    | .loadProgram _ => .refused .beforeReset
    | .step _ => .refused .beforeReset
    | .tickTimers => .refused .beforeReset
    | .setKey _ _ => .refused .beforeReset
    | .readFramebuffer => .refused .beforeReset
    | .readTimers => .refused .beforeReset

/-- A sequence of whole operations, each seeing the full effect of the earlier ones (20_memory.md R69), with the
replies in order. -/
def runOps : List HostOp → Powered → Host.Outcome (Powered × List Reply) Fault Refusal
  | [], c => .next (c, [])
  | op :: ops, c =>
    match applyOp op c with
    | .next (c', r) =>
      match runOps ops c' with
      | .next (c'', rs) => .next (c'', r :: rs)
      | .fault f => .fault f
      | .refused q => .refused q
    | .fault f => .fault f
    | .refused q => .refused q

end Sys2Proof.Machine
end

