-- ==== Sys2Proof/Safety.lean ====
section
/-! DEFINITION. The terms the claims use: parts of the state and what it means that only some of them change, which
parts and registers the spec lets each instruction write, when it faults, when a step is safe, the invariant, and a
sprite's bits on the screen. -/

namespace Sys2Proof.Machine

/-! ### Frames -/

/-- The pieces of state of 10_state.md R20, and the model's random input (log 2). -/
inductive Part where
  | regs | i | pc | sp | stack | dt | st | display | keys | snapshot | memory | fault | rndInput
  deriving DecidableEq, Repr

/-- Two states agree on a piece, read through the model's own reads: every register, every cell, every byte. -/
def SameOn (p : Part) (s t : State) : Prop :=
  match p with
  | .regs => ∀ r, t.reg r = s.reg r
  | .i => t.i = s.i
  | .pc => t.pc = s.pc
  | .sp => t.sp = s.sp
  | .stack => ∀ j, t.stackAt j = s.stackAt j
  | .dt => t.dt = s.dt
  | .st => t.st = s.st
  | .display => ∀ y x, t.fb.cell y x = s.fb.cell y x
  | .keys => ∀ k, t.key k = s.key k
  | .snapshot => ∀ k, t.prevKey k = s.prevKey k
  | .memory => ∀ a, t.mem.read a = s.mem.read a
  | .fault => t.fault = s.fault
  | .rndInput => t.rndIn = s.rndIn ∧ t.rndCount = s.rndCount

/-- From `s` to `t` nothing changes outside the listed pieces. -/
def Frame (changed : List Part) (s t : State) : Prop := ∀ p, p ∉ changed → SameOn p s t

/-- The pieces the spec lets an instruction that does not fault write: 10_state.md R22 to R33, R40; 20_memory.md R67.
The random input counts as used by RND alone (41_register_alu.md R151). -/
def touches : Instr → List Part
  | .cls => [.pc, .display]
  | .ret => [.pc, .sp]
  | .jp _ => [.pc]
  | .call _ => [.pc, .sp, .stack]
  | .seImm _ _ => [.pc]
  | .sneImm _ _ => [.pc]
  | .seReg _ _ => [.pc]
  | .ldImm _ _ => [.pc, .regs]
  | .addImm _ _ => [.pc, .regs]
  | .ldReg _ _ => [.pc, .regs]
  | .orReg _ _ => [.pc, .regs]
  | .andReg _ _ => [.pc, .regs]
  | .xorReg _ _ => [.pc, .regs]
  | .addReg _ _ => [.pc, .regs]
  | .subReg _ _ => [.pc, .regs]
  | .shr _ _ => [.pc, .regs]
  | .subn _ _ => [.pc, .regs]
  | .shl _ _ => [.pc, .regs]
  | .sneReg _ _ => [.pc]
  | .ldI _ => [.pc, .i]
  | .jpV0 _ => [.pc]
  | .rnd _ _ => [.pc, .regs, .rndInput]
  | .drw _ _ _ => [.pc, .regs, .display]
  | .skp _ => [.pc]
  | .sknp _ => [.pc]
  | .ldVxDT _ => [.pc, .regs]
  | .ldVxK _ => [.pc, .regs, .snapshot]
  | .ldDTVx _ => [.pc, .dt]
  | .ldSTVx _ => [.pc, .st]
  | .addI _ => [.pc, .i]
  | .ldF _ => [.pc, .i]
  | .ldB _ => [.pc, .memory]
  | .store _ => [.pc, .memory, .i]
  | .load _ => [.pc, .regs, .i]

/-- The registers the spec lets an instruction write: `V[x]`, `V[0..x]` for the load, and VF for the nine
instructions of 10_state.md R22 (R23). -/
def mayWrite (i : Instr) (r : Nibble) : Bool :=
  match i with
  | .ldImm x _ => r == x
  | .addImm x _ => r == x
  | .ldReg x _ => r == x
  | .orReg x _ => r == x || r == flagReg
  | .andReg x _ => r == x || r == flagReg
  | .xorReg x _ => r == x || r == flagReg
  | .addReg x _ => r == x || r == flagReg
  | .subReg x _ => r == x || r == flagReg
  | .shr x _ => r == x || r == flagReg
  | .subn x _ => r == x || r == flagReg
  | .shl x _ => r == x || r == flagReg
  | .rnd x _ => r == x
  | .drw _ _ _ => r == flagReg
  | .ldVxDT x => r == x
  | .ldVxK x => r == x
  | .load x => decide (r.toNat ≤ x.toNat)
  | .cls => false
  | .ret => false
  | .jp _ => false
  | .call _ => false
  | .seImm _ _ => false
  | .sneImm _ _ => false
  | .seReg _ _ => false
  | .sneReg _ _ => false
  | .ldI _ => false
  | .jpV0 _ => false
  | .skp _ => false
  | .sknp _ => false
  | .ldDTVx _ => false
  | .ldSTVx _ => false
  | .addI _ => false
  | .ldF _ => false
  | .ldB _ => false
  | .store _ => false

/-- How many bytes at I an instruction stores (20_memory.md R67): 3 for LD B, x+1 for the dump, none else. -/
def storedBytes : Instr → Nat
  | .ldB _ => 3
  | .store x => x.toNat + 1
  | .cls => 0
  | .ret => 0
  | .jp _ => 0
  | .call _ => 0
  | .seImm _ _ => 0
  | .sneImm _ _ => 0
  | .seReg _ _ => 0
  | .ldImm _ _ => 0
  | .addImm _ _ => 0
  | .ldReg _ _ => 0
  | .orReg _ _ => 0
  | .andReg _ _ => 0
  | .xorReg _ _ => 0
  | .addReg _ _ => 0
  | .subReg _ _ => 0
  | .shr _ _ => 0
  | .subn _ _ => 0
  | .shl _ _ => 0
  | .sneReg _ _ => 0
  | .ldI _ => 0
  | .jpV0 _ => 0
  | .rnd _ _ => 0
  | .drw _ _ _ => 0
  | .skp _ => 0
  | .sknp _ => 0
  | .ldVxDT _ => 0
  | .ldVxK _ => 0
  | .ldDTVx _ => 0
  | .ldSTVx _ => 0
  | .addI _ => 0
  | .ldF _ => 0
  | .load _ => 0

/-! ### Faults and safety -/

/-- The fault of an access of `len` bytes at a base register, as 60_exceptions.md R205 words it: raised when the last
byte lies above 0xFFF, recording max(base, 0x1000). -/
def accessFault (base : Word) (len : Nat) : Option Fault :=
  if len > 0 ∧ base.toNat + len - 1 > 0xFFF then some (.outOfBounds (BitVec.ofNat 16 (max base.toNat 0x1000))) else none

/-- The fault an instruction meets in its execute phase, as 60_exceptions.md R205 to R207 and R210 list them. -/
def faultOf (i : Instr) (s : State) : Option Fault :=
  match i with
  | .call _ => if s.sp.val = 16 then some .stackOverflow else none
  | .ret => if s.sp.val = 0 then some .stackUnderflow else none
  | .drw _ _ n => accessFault s.i n.toNat
  | .ldB _ => accessFault s.i 3
  | .store x => accessFault s.i (x.toNat + 1)
  | .load x => accessFault s.i (x.toNat + 1)
  | .cls => none
  | .jp _ => none
  | .seImm _ _ => none
  | .sneImm _ _ => none
  | .seReg _ _ => none
  | .ldImm _ _ => none
  | .addImm _ _ => none
  | .ldReg _ _ => none
  | .orReg _ _ => none
  | .andReg _ _ => none
  | .xorReg _ _ => none
  | .addReg _ _ => none
  | .subReg _ _ => none
  | .shr _ _ => none
  | .subn _ _ => none
  | .shl _ _ => none
  | .sneReg _ _ => none
  | .ldI _ => none
  | .jpV0 _ => none
  | .rnd _ _ => none
  | .skp _ => none
  | .sknp _ => none
  | .ldVxDT _ => none
  | .ldVxK _ => none
  | .ldDTVx _ => none
  | .ldSTVx _ => none
  | .addI _ => none
  | .ldF _ => none

/-- The conditions under which a step of a running core meets no fault (70_reset_and_hazards.md R253): PC in 0x000 to
0xFFE, and whatever instruction stands there keeps its accesses inside memory and the call depth in range. -/
def stepSafe (s : State) : Prop :=
  s.pc.toNat ≤ 0xFFE ∧ ∀ i, decodeWord s.fetchWord = .ok i → faultOf i s = none

/-! ### The invariant -/

/-- What every reachable state satisfies: memory in canonical form (log 13), PC at most 0x10FE (10_state.md R26),
every stack entry at most 0x1000 (40_control_flow.md R122), and a recorded address above memory (60_exceptions.md
R205). -/
def Inv (s : State) : Prop :=
  s.mem.wf ∧ s.pc.toNat ≤ 0x10FE ∧ (∀ j, (s.stackAt j).toNat ≤ 0x1000) ∧
    ∀ a, s.fault = some (.outOfBounds a) → 0x1000 ≤ a.toNat

/-! ### A sprite on the screen -/

/-- The sprite bit over cell (px, py) when n rows from memory at `a` are drawn with origin column ox and row oy
(43_display.md R181, R182): row py - oy of the sprite, bit 7 at the origin column; false off the sprite. -/
def spriteBit (m : Memory) (a oy ox n py px : Nat) : Bool :=
  decide (oy ≤ py) && decide (py < oy + n) && decide (ox ≤ px) && decide (px < ox + 8) &&
    (m.read (a + (py - oy))).getLsbD (7 - (px - ox))

end Sys2Proof.Machine
end

