-- ==== Sys2Proof/WellFormed.lean ====
section
/-! DEFINITION. The ranges an instruction's written operands must lie in (30_encoding.md R93, R102): a register
digit 0..15, `n` 0..15, `kk` 0..255, `nnn` 0..0xFFF. The operand types of `Instr` are exactly these ranges, so a
term of `Instr` always passes; the check has force on operand lists as an assembler line would give them. -/

namespace Sys2Proof

/-- The kinds of operand a line may hold (30_encoding.md R91, R102). -/
inductive OperandKind where
  /-- `Vx` or `Vy`: one hexadecimal digit. -/
  | register
  /-- `n`: 0..15. -/
  | short
  /-- `kk`: 0..255. -/
  | immediate
  /-- `nnn`: 0..0xFFF. -/
  | address
  deriving DecidableEq, Repr

/-- Whether a written number is in the range R102 gives its kind. -/
def OperandKind.fits : OperandKind → Nat → Bool
  | .register, v => decide (v < 16)
  | .short, v => decide (v < 16)
  | .immediate, v => decide (v < 256)
  | .address, v => decide (v < 4096)

/-- Every operand of a list is in its kind's range. -/
def operandsFit (ops : List (OperandKind × Nat)) : Bool :=
  ops.all fun p => p.1.fits p.2

/-- The operands of an instruction as numbers, in the order its syntax writes them (30_encoding.md R95). -/
def Instr.operands : Instr → List (OperandKind × Nat)
  | .cls => []
  | .ret => []
  | .jp nnn => [(.address, nnn.toNat)]
  | .call nnn => [(.address, nnn.toNat)]
  | .seImm x kk => [(.register, x.toNat), (.immediate, kk.toNat)]
  | .sneImm x kk => [(.register, x.toNat), (.immediate, kk.toNat)]
  | .seReg x y => [(.register, x.toNat), (.register, y.toNat)]
  | .ldImm x kk => [(.register, x.toNat), (.immediate, kk.toNat)]
  | .addImm x kk => [(.register, x.toNat), (.immediate, kk.toNat)]
  | .ldReg x y => [(.register, x.toNat), (.register, y.toNat)]
  | .orReg x y => [(.register, x.toNat), (.register, y.toNat)]
  | .andReg x y => [(.register, x.toNat), (.register, y.toNat)]
  | .xorReg x y => [(.register, x.toNat), (.register, y.toNat)]
  | .addReg x y => [(.register, x.toNat), (.register, y.toNat)]
  | .subReg x y => [(.register, x.toNat), (.register, y.toNat)]
  | .shr x y => [(.register, x.toNat), (.register, y.toNat)]
  | .subn x y => [(.register, x.toNat), (.register, y.toNat)]
  | .shl x y => [(.register, x.toNat), (.register, y.toNat)]
  | .sneReg x y => [(.register, x.toNat), (.register, y.toNat)]
  | .ldI nnn => [(.address, nnn.toNat)]
  | .jpV0 nnn => [(.address, nnn.toNat)]
  | .rnd x kk => [(.register, x.toNat), (.immediate, kk.toNat)]
  | .drw x y n => [(.register, x.toNat), (.register, y.toNat), (.short, n.toNat)]
  | .skp x => [(.register, x.toNat)]
  | .sknp x => [(.register, x.toNat)]
  | .ldVxDT x => [(.register, x.toNat)]
  | .ldVxK x => [(.register, x.toNat)]
  | .ldDTVx x => [(.register, x.toNat)]
  | .ldSTVx x => [(.register, x.toNat)]
  | .addI x => [(.register, x.toNat)]
  | .ldF x => [(.register, x.toNat)]
  | .ldB x => [(.register, x.toNat)]
  | .store x => [(.register, x.toNat)]
  | .load x => [(.register, x.toNat)]

/-- An instruction is well formed when all its operands are in range. -/
def Instr.wellFormed (i : Instr) : Bool := operandsFit i.operands

end Sys2Proof
end

