-- ==== Sys2Proof/Certificates/Slice0/Obligations.lean ====
section
/-! DEFINITION. The statements for the provers. Each docstring names the rule of spec/ it formalises, and where a
clause rests on a decision the spec marks as its own, that decision and the log entry. "VF" is register 0xF. -/

open Sys2Proof Sys2Proof.Machine

/-! ### Encoding and decoding -/

/-- Decoding the bytes of an encoded instruction gives it back, with every operand at every value, and leaves the
bytes after it (30_encoding.md R90, R91, R93; the numbers by decision D9, log 5). -/
def Obligations.DecodeOfEncodeIsTheInstruction : Prop :=
  ∀ (i : Instr) (rest : List Byte), decodeBytes (wordBytes (encode i) ++ rest) = .ok (i, rest)

/-- Every word that decodes is the encoding of what it decodes to: no bit of it is ignored (30_encoding.md R99, which
is derived from R95). -/
def Obligations.EncodeOfDecodeIsTheWord : Prop :=
  ∀ (w : Word) (i : Instr), decodeWord w = .ok i → encode i = w

/-- The decoder agrees with the opcode map: a word is the instruction of a row if and only if `w & mask = match`, and
it matches at most one row (30_encoding.md R95; the numbers by decision D9, log 5). -/
def Obligations.DecodeAgreesWithOpcodeTable : Prop :=
  (∀ (w : Word) (row : OpcodeRow), row ∈ opcodeTable →
    (w &&& row.mask = row.pattern ↔ ∃ i : Instr, decodeWord w = .ok i ∧ i.mnemonic = row.mnemonic)) ∧
  ∀ (w : Word) (row row' : OpcodeRow), row ∈ opcodeTable → row' ∈ opcodeTable →
    w &&& row.mask = row.pattern → w &&& row'.mask = row'.pattern → row = row'

/-- Which words are unknown instructions: the table of 30_encoding.md R98, family by family (strict by decision D10,
log 6). -/
def Obligations.UnknownWordsAreTheListedOnes : Prop :=
  ∀ w : Word, decodeWord w = .error (.unknownInstruction w) ↔
    (opField w = 0x0#4 ∧ nnnField w ≠ 0x0E0#12 ∧ nnnField w ≠ 0x0EE#12) ∨
    (opField w = 0x5#4 ∧ nField w ≠ 0x0#4) ∨
    (opField w = 0x8#4 ∧ nField w ∈ [0x8#4, 0x9#4, 0xA#4, 0xB#4, 0xC#4, 0xD#4, 0xF#4]) ∨
    (opField w = 0x9#4 ∧ nField w ≠ 0x0#4) ∨
    (opField w = 0xE#4 ∧ kkField w ∉ [0x9E#8, 0xA1#8]) ∨
    (opField w = 0xF#4 ∧
      kkField w ∉ [0x07#8, 0x0A#8, 0x15#8, 0x18#8, 0x1E#8, 0x29#8, 0x33#8, 0x55#8, 0x65#8])

/-- A few words written out from the patterns of 30_encoding.md R95, one of each family, decode to what they stand
for; the first four are the source's own (R97). -/
def Obligations.SampleWordsDecode : Prop :=
  decodeWord 0x00E0#16 = .ok .cls ∧ decodeWord 0x1234#16 = .ok (.jp 0x234#12) ∧
  decodeWord 0x6005#16 = .ok (.ldImm 0#4 5#8) ∧ decodeWord 0x700A#16 = .ok (.addImm 0#4 10#8) ∧
  decodeWord 0x8127#16 = .ok (.subn 1#4 2#4) ∧ decodeWord 0xF255#16 = .ok (.store 2#4) ∧
  decodeWord 0xD123#16 = .ok (.drw 1#4 2#4 3#4) ∧ decodeWord 0xE39E#16 = .ok (.skp 3#4) ∧
  decodeWord 0xF00A#16 = .ok (.ldVxK 0#4)

/-! ### The step cycle (60_exceptions.md) -/

/-- The word fetched at address a is `mem[a] << 8 | mem[a+1]` (20_memory.md R62, its first sentences). -/
def Obligations.FetchIsBigEndian : Prop :=
  ∀ s : State, s.fetchWord.toNat = 256 * (s.mem.read s.pc.toNat).toNat + (s.mem.read (s.pc.toNat + 1)).toNat

/-- Where the core is not halted, PC is at most 0xFFE and the word at PC decodes to a well-formed instruction, a step
is the execution of that instruction at the same state, and nothing is reported (60_exceptions.md R200). The step adds
nothing around `exec`: moving PC past the instruction is part of `exec` (log 14). -/
def Obligations.StepRunsTheDecodedInstruction : Prop :=
  ∀ (s : State) (i : Instr), s.fault = none → s.pc.toNat ≤ 0xFFE → decodeWord s.fetchWord = .ok i →
    i.wellFormed = true → step s = exec i s ∧ reportOf s = none

/-- An unknown word is a reported no-op: PC moves by 2, the core is not halted, nothing else changes, and the event
carries the word and its address (60_exceptions.md R203; the form of the event by decision D11, log 3). -/
def Obligations.UnknownWordIsReportedNoOp : Prop :=
  ∀ (s : State) (e : DecodeError), s.fault = none → s.pc.toNat ≤ 0xFFE → decodeWord s.fetchWord = .error e →
    ∃ t, step s = .next t ∧ t.pc = s.pc + 2#16 ∧ t.fault = none ∧ Frame [.pc] s t ∧
      reportOf s = some ⟨s.fetchWord, s.pc⟩

/-- A fetch with PC above 0xFFE faults with max(PC, 0x1000) recorded; nothing else changes and nothing is reported
(60_exceptions.md R205, R200; decision D3, log 11). -/
def Obligations.FetchPastTheEndFaults : Prop :=
  ∀ s : State, s.fault = none → 0xFFE < s.pc.toNat →
    step s = .next (s.setFault (some (.outOfBounds (BitVec.ofNat 16 (max s.pc.toNat 0x1000))))) ∧ reportOf s = none

/-- Once a fault is recorded no number of steps changes anything, and nothing is reported (60_exceptions.md R204 (c);
decision D6, log 1). -/
def Obligations.HaltedCoreStaysAsItIs : Prop :=
  ∀ (s : State) (f : Fault) (n : Nat), s.fault = some f → Sys2Proof.core.run n s = .next s ∧ reportOf s = none

/-- A step has no outcome but a next state: no trap, no stop, no refusal (60_exceptions.md R202, which is derived;
a fault is a state with the record set, log 1). -/
def Obligations.StepAlwaysAnswersANextState : Prop :=
  ∀ s : State, ∃ t, step s = .next t

/-- A step that records a fault changes nothing else, PC included (60_exceptions.md R204 (a), (b); decision D6,
log 1). -/
def Obligations.FaultingStepChangesOnlyTheRecord : Prop :=
  ∀ s t : State, step s = .next t → t.fault ≠ s.fault → t = s.setFault t.fault

/-- A step of a running core meets no fault exactly when PC is within 0x000 to 0xFFE and the instruction there keeps
its accesses inside memory and the call depth in range (70_reset_and_hazards.md R253, which is derived). -/
def Obligations.NoFaultExactlyWhenTheStepIsSafe : Prop :=
  ∀ s : State, s.fault = none → ∃ t, step s = .next t ∧ (t.fault = none ↔ stepSafe s)

/-- Execute-phase faults, all of them: an instruction that meets one leaves the state unchanged but for the record
(60_exceptions.md R204 to R207, R210; decisions D3 to D6, log 1, 11, 12). -/
def Obligations.EveryExecuteFaultIsPrecise : Prop :=
  ∀ (i : Instr) (s : State) (f : Fault), faultOf i s = some f → exec i s = .next (s.setFault (some f))

/-! ### All instructions at once -/

/-- Every instruction, where it meets none of the faults of 60_exceptions.md R205 to R207, completes, and changes only
the pieces of state, the registers and the bytes of memory that 10_state.md R22, R23, R40 and 20_memory.md R67 give
it. The bytes it stores to are `storedBytes` bytes from I. -/
def Obligations.EveryInstructionCompletesWithinItsFrame : Prop :=
  ∀ (i : Instr) (s : State), faultOf i s = none →
    ∃ t, exec i s = .next t ∧ t.fault = s.fault ∧ Frame (touches i) s t ∧
      (∀ r : Nibble, mayWrite i r = false → t.reg r = s.reg r) ∧
      ∀ a : Nat, ¬ (s.i.toNat ≤ a ∧ a < s.i.toNat + storedBytes i) → t.mem.read a = s.mem.read a

/-- The random input is used by RND alone: any other instruction does the same whatever stands on it
(41_register_alu.md R151, its corner cases; the form of the input is the model's, log 2). -/
def Obligations.OnlyRndUsesTheRandomByte : Prop :=
  ∀ (i : Instr) (s t : State) (b : Option Byte), (∀ x kk, i ≠ .rnd x kk) → exec i s = .next t →
    exec i (s.setRndIn b) = .next (t.setRndIn b)

/-- The key snapshot is hidden from every instruction but LD Vx,K (10_state.md R33). -/
def Obligations.OnlyKeyWaitSeesTheSnapshot : Prop :=
  ∀ (i : Instr) (s t : State) (k : Vector Bool 16), (∀ x, i ≠ .ldVxK x) → exec i s = .next t →
    exec i (s.setPrevKeys k) = .next (t.setPrevKeys k)

/-! ### Control transfer (40_control_flow.md) -/

/-- JP nnn (40_control_flow.md R121): PC is the operand; no flag, no fault, nothing else. -/
def Obligations.JumpSetsPcToTheOperand : Prop :=
  ∀ (s : State) (nnn : Addr12), ∃ t, exec (.jp nnn) s = .next t ∧ t.pc.toNat = nnn.toNat ∧ Frame [.pc] s t

/-- JP V0, nnn (40_control_flow.md R127): PC is the unmasked sum with V0, whatever the high digit of nnn (16 bits by
decision D32, log 15). -/
def Obligations.JumpWithOffsetAddsV0 : Prop :=
  ∀ (s : State) (nnn : Addr12), ∃ t, exec (.jpV0 nnn) s = .next t ∧
    t.pc.toNat = nnn.toNat + (s.reg 0#4).toNat ∧ Frame [.pc] s t

/-- A jump to itself holds the whole state for any number of steps (70_reset_and_hazards.md R252, 40_control_flow.md
R121; the convention is decision D26). -/
def Obligations.JumpToItselfHoldsTheState : Prop :=
  ∀ (s : State) (a : Addr12) (n : Nat), s.fault = none → s.pc.toNat ≤ 0xFFE → s.pc.toNat = a.toNat →
    s.fetchWord = 0x1000#16 ||| a.setWidth 16 → Sys2Proof.core.run n s = .next s

/-- CALL nnn with room on the stack (40_control_flow.md R122): the address after the CALL goes to stack[SP], SP goes up
by one, PC is the operand, the other entries stay (the case of a full stack is decision D4, `StackFaults`). -/
def Obligations.CallPushesTheReturnAddress : Prop :=
  ∀ (s : State) (nnn : Addr12), s.sp.val < 16 → ∃ t, exec (.call nnn) s = .next t ∧
    t.sp.val = s.sp.val + 1 ∧ t.stackAt s.sp.val = s.pc + 2#16 ∧
    (∀ j, j ≠ s.sp.val → t.stackAt j = s.stackAt j) ∧ t.pc.toNat = nnn.toNat ∧ Frame [.pc, .sp, .stack] s t

/-- RET with an address on the stack (40_control_flow.md R120): SP goes down by one and PC is the popped entry, which
keeps its value (the empty stack is decision D5, `StackFaults`). -/
def Obligations.ReturnPopsTheAddress : Prop :=
  ∀ s : State, 0 < s.sp.val → ∃ t, exec .ret s = .next t ∧
    t.sp.val = s.sp.val - 1 ∧ t.pc = s.stackAt (s.sp.val - 1) ∧ Frame [.pc, .sp] s t

/-- CALL on a full stack and RET on an empty one record the fault and change nothing else, PC included
(60_exceptions.md R206, R207; decisions D4, D5, D6, log 12). -/
def Obligations.StackFaults : Prop :=
  (∀ (s : State) (nnn : Addr12), s.sp.val = 16 → exec (.call nnn) s = .next (s.setFault (some .stackOverflow))) ∧
  ∀ s : State, s.sp.val = 0 → exec .ret s = .next (s.setFault (some .stackUnderflow))

/-- A RET returns to the instruction after the matching CALL (40_control_flow.md R120, corner cases): from any state
whose SP and top entry are as the CALL left them. -/
def Obligations.ReturnGoesBehindTheMatchingCall : Prop :=
  ∀ (s : State) (nnn : Addr12), s.sp.val < 16 → ∃ t, exec (.call nnn) s = .next t ∧
    ∀ v : State, v.sp = t.sp → v.stackAt s.sp.val = t.stackAt s.sp.val →
      ∃ u, exec .ret v = .next u ∧ u.pc = s.pc + 2#16 ∧ u.sp = s.sp ∧ Frame [.pc, .sp] v u

/-- SE Vx, kk and SNE Vx, kk (40_control_flow.md R123, R124): PC moves by 4 when the condition holds, else by 2. -/
def Obligations.ImmediateSkips : Prop :=
  ∀ (s : State) (x : Nibble) (kk : Byte),
    (∃ t, exec (.seImm x kk) s = .next t ∧ t.pc = (if s.reg x = kk then s.pc + 4#16 else s.pc + 2#16) ∧
      Frame [.pc] s t) ∧
    ∃ t, exec (.sneImm x kk) s = .next t ∧ t.pc = (if s.reg x = kk then s.pc + 2#16 else s.pc + 4#16) ∧
      Frame [.pc] s t

/-- SE Vx, Vy and SNE Vx, Vy (40_control_flow.md R125, R126; the low nibble of their words is decision D10, log 6). -/
def Obligations.RegisterSkips : Prop :=
  ∀ (s : State) (x y : Nibble),
    (∃ t, exec (.seReg x y) s = .next t ∧ t.pc = (if s.reg x = s.reg y then s.pc + 4#16 else s.pc + 2#16) ∧
      Frame [.pc] s t) ∧
    ∃ t, exec (.sneReg x y) s = .next t ∧ t.pc = (if s.reg x = s.reg y then s.pc + 2#16 else s.pc + 4#16) ∧
      Frame [.pc] s t

/-! ### Registers and arithmetic (41_register_alu.md) -/

/-- LD Vx, kk and LD Vx, Vy (41_register_alu.md R140, R142): V[x] is written, every other register and VF stay unless
x names them. -/
def Obligations.LoadsWriteOneRegister : Prop :=
  ∀ (s : State) (x y : Nibble) (kk : Byte),
    (∃ t, exec (.ldImm x kk) s = .next t ∧ t.reg x = kk ∧ (∀ r, r ≠ x → t.reg r = s.reg r) ∧
      t.pc = s.pc + 2#16 ∧ Frame [.pc, .regs] s t) ∧
    ∃ t, exec (.ldReg x y) s = .next t ∧ t.reg x = s.reg y ∧ (∀ r, r ≠ x → t.reg r = s.reg r) ∧
      t.pc = s.pc + 2#16 ∧ Frame [.pc, .regs] s t

/-- ADD Vx, kk (41_register_alu.md R141): the sum modulo 256; VF is untouched unless x = F. -/
def Obligations.AddImmediateWrapsWithoutFlag : Prop :=
  ∀ (s : State) (x : Nibble) (kk : Byte), ∃ t, exec (.addImm x kk) s = .next t ∧
    (t.reg x).toNat = ((s.reg x).toNat + kk.toNat) % 256 ∧ (∀ r, r ≠ x → t.reg r = s.reg r) ∧
    t.pc = s.pc + 2#16 ∧ Frame [.pc, .regs] s t

/-- OR, AND, XOR (41_register_alu.md R143 to R145): the result in V[x], and VF 0, also when x = F (the flag last:
decision D8, log 9). -/
def Obligations.LogicClearsTheFlag : Prop :=
  ∀ (s : State) (x y : Nibble),
    (∃ t, exec (.orReg x y) s = .next t ∧ (x ≠ 0xF#4 → t.reg x = s.reg x ||| s.reg y) ∧ t.reg 0xF#4 = 0#8 ∧
      (∀ r, r ≠ x → r ≠ 0xF#4 → t.reg r = s.reg r) ∧ t.pc = s.pc + 2#16 ∧ Frame [.pc, .regs] s t) ∧
    (∃ t, exec (.andReg x y) s = .next t ∧ (x ≠ 0xF#4 → t.reg x = s.reg x &&& s.reg y) ∧ t.reg 0xF#4 = 0#8 ∧
      (∀ r, r ≠ x → r ≠ 0xF#4 → t.reg r = s.reg r) ∧ t.pc = s.pc + 2#16 ∧ Frame [.pc, .regs] s t) ∧
    ∃ t, exec (.xorReg x y) s = .next t ∧ (x ≠ 0xF#4 → t.reg x = s.reg x ^^^ s.reg y) ∧ t.reg 0xF#4 = 0#8 ∧
      (∀ r, r ≠ x → r ≠ 0xF#4 → t.reg r = s.reg r) ∧ t.pc = s.pc + 2#16 ∧ Frame [.pc, .regs] s t

/-- ADD Vx, Vy (41_register_alu.md R146): VF = 1 iff the sum exceeds 255, for every destination; V[x] is the sum modulo
256 for x other than F (with x = F the flag stands: decision D8, log 9). -/
def Obligations.AddSetsCarry : Prop :=
  ∀ (s : State) (x y : Nibble), ∃ t, exec (.addReg x y) s = .next t ∧
    t.reg 0xF#4 = (if (s.reg x).toNat + (s.reg y).toNat > 255 then 1#8 else 0#8) ∧
    (x ≠ 0xF#4 → (t.reg x).toNat = ((s.reg x).toNat + (s.reg y).toNat) % 256) ∧
    (∀ r, r ≠ x → r ≠ 0xF#4 → t.reg r = s.reg r) ∧ t.pc = s.pc + 2#16 ∧ Frame [.pc, .regs] s t

/-- SUB and SUBN (41_register_alu.md R147, R149): the difference modulo 256, VF = 1 iff there is no borrow, computed
from the operands before the write (decisions D7, D8, log 9). -/
def Obligations.SubtractSetsNoBorrow : Prop :=
  ∀ (s : State) (x y : Nibble),
    (∃ t, exec (.subReg x y) s = .next t ∧
      t.reg 0xF#4 = (if (s.reg y).toNat ≤ (s.reg x).toNat then 1#8 else 0#8) ∧
      (x ≠ 0xF#4 → (t.reg x).toNat = ((s.reg x).toNat + 256 - (s.reg y).toNat) % 256) ∧
      (∀ r, r ≠ x → r ≠ 0xF#4 → t.reg r = s.reg r) ∧ t.pc = s.pc + 2#16 ∧ Frame [.pc, .regs] s t) ∧
    ∃ t, exec (.subn x y) s = .next t ∧
      t.reg 0xF#4 = (if (s.reg x).toNat ≤ (s.reg y).toNat then 1#8 else 0#8) ∧
      (x ≠ 0xF#4 → (t.reg x).toNat = ((s.reg y).toNat + 256 - (s.reg x).toNat) % 256) ∧
      (∀ r, r ≠ x → r ≠ 0xF#4 → t.reg r = s.reg r) ∧ t.pc = s.pc + 2#16 ∧ Frame [.pc, .regs] s t

/-- SHR and SHL (41_register_alu.md R148, R150): V[y] shifted by one into V[x], VF the bit shifted out; the old V[x]
is not read (x = F: decision D8, log 9). -/
def Obligations.ShiftsMoveVyIntoVx : Prop :=
  ∀ (s : State) (x y : Nibble),
    (∃ t, exec (.shr x y) s = .next t ∧ (t.reg 0xF#4).toNat = (s.reg y).toNat % 2 ∧
      (x ≠ 0xF#4 → (t.reg x).toNat = (s.reg y).toNat / 2) ∧
      (∀ r, r ≠ x → r ≠ 0xF#4 → t.reg r = s.reg r) ∧ t.pc = s.pc + 2#16 ∧ Frame [.pc, .regs] s t) ∧
    ∃ t, exec (.shl x y) s = .next t ∧ (t.reg 0xF#4).toNat = (s.reg y).toNat / 128 ∧
      (x ≠ 0xF#4 → (t.reg x).toNat = (s.reg y).toNat * 2 % 256) ∧
      (∀ r, r ≠ x → r ≠ 0xF#4 → t.reg r = s.reg r) ∧ t.pc = s.pc + 2#16 ∧ Frame [.pc, .regs] s t

/-- RND Vx, kk (41_register_alu.md R151): V[x] is a random byte masked by kk; the byte is the one on the step's input
when the host put one there, and is otherwise unconstrained (decision D19; the form of the input is the model's,
log 2). -/
def Obligations.RandomByteIsMasked : Prop :=
  ∀ (s : State) (x : Nibble) (kk : Byte), ∃ (t : State) (b : Byte), exec (.rnd x kk) s = .next t ∧
    (∀ c, s.rndIn = some c → b = c) ∧ t.reg x = b &&& kk ∧ t.reg x &&& ~~~kk = 0#8 ∧
    (∀ r, r ≠ x → t.reg r = s.reg r) ∧ t.pc = s.pc + 2#16 ∧ Frame [.pc, .regs, .rndInput] s t

/-- The byte of Step(rnd) is the one RND uses (60_exceptions.md R201; decision D19, log 2). -/
def Obligations.StepInputReachesRnd : Prop :=
  ∀ (s : State) (b : Byte) (x : Nibble) (kk : Byte), s.fault = none → s.pc.toNat ≤ 0xFFE →
    decodeWord s.fetchWord = .ok (.rnd x kk) →
    ∃ t, stepWith b s = .next t ∧ t.reg x = b &&& kk ∧ t.pc = s.pc + 2#16 ∧ t.rndCount = s.rndCount

/-! ### Index register and memory (42_index_memory.md) -/

/-- LD I, nnn (42_index_memory.md R160). -/
def Obligations.LoadIndexImmediate : Prop :=
  ∀ (s : State) (nnn : Addr12), ∃ t, exec (.ldI nnn) s = .next t ∧ t.i.toNat = nnn.toNat ∧ t.pc = s.pc + 2#16 ∧
    Frame [.pc, .i] s t

/-- ADD I, Vx and LD F, Vx (42_index_memory.md R161, R162): the sum modulo 65536 with no flag (decision D22, log 15);
the glyph formula on all 8 bits (decision D13, log 8). -/
def Obligations.IndexArithmetic : Prop :=
  ∀ (s : State) (x : Nibble),
    (∃ t, exec (.addI x) s = .next t ∧ t.i.toNat = (s.i.toNat + (s.reg x).toNat) % 65536 ∧ t.pc = s.pc + 2#16 ∧
      Frame [.pc, .i] s t) ∧
    ∃ t, exec (.ldF x) s = .next t ∧ t.i.toNat = 0x50 + 5 * (s.reg x).toNat ∧ t.pc = s.pc + 2#16 ∧
      Frame [.pc, .i] s t

/-- LD B, Vx (42_index_memory.md R163): the three decimal digits at I, I+1, I+2, I unchanged, no other byte changed;
beyond memory the fault with max(I, 0x1000) and nothing else (R164; decisions D3, D6, log 1, 11). -/
def Obligations.DecimalDigitsAreStored : Prop :=
  ∀ (s : State) (x : Nibble),
    (s.i.toNat + 2 ≤ 0xFFF → ∃ t, exec (.ldB x) s = .next t ∧
      (t.mem.read s.i.toNat).toNat = (s.reg x).toNat / 100 ∧
      (t.mem.read (s.i.toNat + 1)).toNat = (s.reg x).toNat / 10 % 10 ∧
      (t.mem.read (s.i.toNat + 2)).toNat = (s.reg x).toNat % 10 ∧
      (∀ a, ¬ (s.i.toNat ≤ a ∧ a < s.i.toNat + 3) → t.mem.read a = s.mem.read a) ∧
      t.pc = s.pc + 2#16 ∧ Frame [.pc, .memory] s t) ∧
    (s.i.toNat + 2 > 0xFFF →
      exec (.ldB x) s = .next (s.setFault (some (.outOfBounds (BitVec.ofNat 16 (max s.i.toNat 0x1000))))))

/-- LD [I], Vx (42_index_memory.md R165): V0 to Vx at I upward, I advanced by x + 1, no other byte changed; beyond
memory the fault with max(I, 0x1000) and nothing else (R164; decisions D3, D6, log 1, 11). -/
def Obligations.RegisterDump : Prop :=
  ∀ (s : State) (x : Nibble),
    (s.i.toNat + x.toNat ≤ 0xFFF → ∃ t, exec (.store x) s = .next t ∧
      (∀ r : Nibble, r.toNat ≤ x.toNat → t.mem.read (s.i.toNat + r.toNat) = s.reg r) ∧
      (∀ a, ¬ (s.i.toNat ≤ a ∧ a < s.i.toNat + (x.toNat + 1)) → t.mem.read a = s.mem.read a) ∧
      t.i.toNat = s.i.toNat + x.toNat + 1 ∧ t.pc = s.pc + 2#16 ∧ Frame [.pc, .i, .memory] s t) ∧
    (s.i.toNat + x.toNat > 0xFFF →
      exec (.store x) s = .next (s.setFault (some (.outOfBounds (BitVec.ofNat 16 (max s.i.toNat 0x1000))))))

/-- LD Vx, [I] (42_index_memory.md R166): V0 to Vx from I upward, the registers above x unchanged, I advanced by x + 1,
memory unchanged; beyond memory the fault with max(I, 0x1000) and nothing else (R164; decisions D3, D6, log 1, 11). -/
def Obligations.RegisterLoad : Prop :=
  ∀ (s : State) (x : Nibble),
    (s.i.toNat + x.toNat ≤ 0xFFF → ∃ t, exec (.load x) s = .next t ∧
      (∀ r : Nibble, r.toNat ≤ x.toNat → t.reg r = s.mem.read (s.i.toNat + r.toNat)) ∧
      (∀ r : Nibble, x.toNat < r.toNat → t.reg r = s.reg r) ∧
      t.i.toNat = s.i.toNat + x.toNat + 1 ∧ t.pc = s.pc + 2#16 ∧ Frame [.pc, .i, .regs] s t) ∧
    (s.i.toNat + x.toNat > 0xFFF →
      exec (.load x) s = .next (s.setFault (some (.outOfBounds (BitVec.ofNat 16 (max s.i.toNat 0x1000))))))

/-- A store is seen by the very next fetch at its address (20_memory.md R71, which is derived; decision D23). -/
def Obligations.StoredBytesAreFetched : Prop :=
  ∀ (s : State) (x j k : Nibble), s.i.toNat + x.toNat ≤ 0xFFF → j.toNat < x.toNat → k.toNat = j.toNat + 1 →
    ∃ t, exec (.store x) s = .next t ∧
      (t.setPc (s.i + j.setWidth 16)).fetchWord = (s.reg j ++ s.reg k : BitVec (8 + 8))

/-! ### Display (43_display.md) -/

/-- CLS (43_display.md R180): every cell 0, VF and everything else unchanged. -/
def Obligations.ClearScreen : Prop :=
  ∀ s : State, ∃ t, exec .cls s = .next t ∧ (∀ y x, y < 32 → x < 64 → t.fb.cell y x = false) ∧
    t.pc = s.pc + 2#16 ∧ Frame [.pc, .display] s t

/-- DRW Vx, Vy, n (43_display.md R182): each cell on the screen is exclusive-ored with the sprite's bit over it, with
the origin wrapped and the body clipped; VF is 1 if and only if a cell that was 1 is toggled, else 0 (bit order,
decision D14, log 10; the origin is read before VF is written, decision D8, log 9; the range check covers all n bytes,
decision D15, log 11). -/
def Obligations.DrawTogglesTheSpritesCells : Prop :=
  ∀ (s : State) (x y n : Nibble), n.toNat = 0 ∨ s.i.toNat + n.toNat ≤ 0x1000 →
    ∃ t, exec (.drw x y n) s = .next t ∧
      (∀ py px, py < 32 → px < 64 → t.fb.cell py px =
        (s.fb.cell py px ^^
          spriteBit s.mem s.i.toNat ((s.reg y).toNat % 32) ((s.reg x).toNat % 64) n.toNat py px)) ∧
      ((∃ py px, py < 32 ∧ px < 64 ∧ s.fb.cell py px = true ∧
          spriteBit s.mem s.i.toNat ((s.reg y).toNat % 32) ((s.reg x).toNat % 64) n.toNat py px = true) →
        t.reg 0xF#4 = 1#8) ∧
      ((¬ ∃ py px, py < 32 ∧ px < 64 ∧ s.fb.cell py px = true ∧
          spriteBit s.mem s.i.toNat ((s.reg y).toNat % 32) ((s.reg x).toNat % 64) n.toNat py px = true) →
        t.reg 0xF#4 = 0#8) ∧
      (∀ r, r ≠ 0xF#4 → t.reg r = s.reg r) ∧ t.pc = s.pc + 2#16 ∧ Frame [.pc, .regs, .display] s t

/-- DRW beyond memory records the fault and draws nothing (43_display.md R182, 60_exceptions.md R205; decisions D3,
D15, log 11). -/
def Obligations.DrawBeyondMemoryFaults : Prop :=
  ∀ (s : State) (x y n : Nibble), 0 < n.toNat → s.i.toNat + n.toNat > 0x1000 →
    exec (.drw x y n) s = .next (s.setFault (some (.outOfBounds (BitVec.ofNat 16 (max s.i.toNat 0x1000)))))

/-- Drawing the same sprite at the same place twice restores every cell (43_display.md R182 (g)). The clause on VF, that the
second draw reports a collision if and only if a sprite bit lies over a cell of the screen that was 0 at first, is the
MODEL'S CHOICE (log 22, DEDUCED): it follows from the pseudocode and the flag rule of R182, and the remark of (g),
90_conflicts.md C10 and 95_test_vectors.md S3 say otherwise on VF (`SecondDrawAlwaysCollides`). With x = F or y = F the
first draw moves the origin of the second: each of those draws is `DrawTogglesTheSpritesCells`. -/
def Obligations.DrawingTwiceRestoresTheScreen : Prop :=
  ∀ (s : State) (x y n : Nibble), x ≠ 0xF#4 → y ≠ 0xF#4 → n.toNat = 0 ∨ s.i.toNat + n.toNat ≤ 0x1000 →
    ∃ t u, exec (.drw x y n) s = .next t ∧ exec (.drw x y n) t = .next u ∧
      (∀ py px, u.fb.cell py px = s.fb.cell py px) ∧
      (u.reg 0xF#4 = 1#8 ↔ ∃ py px, py < 32 ∧ px < 64 ∧ s.fb.cell py px = false ∧
        spriteBit s.mem s.i.toNat ((s.reg y).toNat % 32) ((s.reg x).toNat % 64) n.toNat py px = true)

/-- EXPECTED TO FAIL. The remark of 43_display.md R182 (g), repeated in 90_conflicts.md C10 and 95_test_vectors.md S3,
that VF after the second of two equal draws "is 1 whenever the sprite had a set bit inside the screen". It contradicts the
pseudocode of the same rule where the cells under the sprite were 1 at first: the first draw turns them off, the second
turns them on and collides with nothing. The model follows the pseudocode (log 22). -/
def Obligations.SecondDrawAlwaysCollides : Prop :=
  ∀ (s t u : State) (x y n : Nibble), x ≠ 0xF#4 → y ≠ 0xF#4 → s.i.toNat + n.toNat ≤ 0x1000 →
    exec (.drw x y n) s = .next t → exec (.drw x y n) t = .next u →
    (∃ py px, py < 32 ∧ px < 64 ∧
      spriteBit s.mem s.i.toNat ((s.reg y).toNat % 32) ((s.reg x).toNat % 64) n.toNat py px = true) →
    u.reg 0xF#4 = 1#8

/-! ### Keypad and timers (44_keypad_timers.md) -/

/-- SKP Vx and SKNP Vx (44_keypad_timers.md R190, R191, R196): the key tested is V[x] modulo 16. -/
def Obligations.KeySkips : Prop :=
  ∀ (s : State) (x : Nibble),
    (∃ t, exec (.skp x) s = .next t ∧
      t.pc = (if s.key (BitVec.ofNat 4 ((s.reg x).toNat % 16)) = true then s.pc + 4#16 else s.pc + 2#16) ∧
      Frame [.pc] s t) ∧
    ∃ t, exec (.sknp x) s = .next t ∧
      t.pc = (if s.key (BitVec.ofNat 4 ((s.reg x).toNat % 16)) = true then s.pc + 2#16 else s.pc + 4#16) ∧
      Frame [.pc] s t

/-- LD Vx, K with a release edge (44_keypad_timers.md R192): V[x] is the lowest such key, PC advances, the snapshot is
the live flags (lowest by decision D12, log 7). -/
def Obligations.KeyWaitCompletesOnRelease : Prop :=
  ∀ (s : State) (x k : Nibble), s.prevKey k = true → s.key k = false →
    (∀ j : Nibble, j.toNat < k.toNat → ¬ (s.prevKey j = true ∧ s.key j = false)) →
    ∃ t, exec (.ldVxK x) s = .next t ∧ (t.reg x).toNat = k.toNat ∧ (∀ r, r ≠ x → t.reg r = s.reg r) ∧
      (∀ j, t.prevKey j = s.key j) ∧ t.pc = s.pc + 2#16 ∧ Frame [.pc, .regs, .snapshot] s t

/-- LD Vx, K without a release edge (44_keypad_timers.md R192 (a)): PC stays at the instruction and only the snapshot
changes, to the live flags. -/
def Obligations.KeyWaitRepeatsWithoutRelease : Prop :=
  ∀ (s : State) (x : Nibble), (∀ k : Nibble, ¬ (s.prevKey k = true ∧ s.key k = false)) →
    ∃ t, exec (.ldVxK x) s = .next t ∧ t.pc = s.pc ∧ (∀ j, t.prevKey j = s.key j) ∧ Frame [.snapshot] s t

/-- A key seen down by one attempt and released by the host before the next completes the wait with that key
(44_keypad_timers.md R192 (b), 60_exceptions.md R222). -/
def Obligations.KeySeenDownThenReleasedCompletesTheWait : Prop :=
  ∀ (s : State) (x k : Nibble), (∀ j : Nibble, ¬ (s.prevKey j = true ∧ s.key j = false)) → s.key k = true →
    ∃ t u, exec (.ldVxK x) s = .next t ∧ t.pc = s.pc ∧ exec (.ldVxK x) (setKey k false t) = .next u ∧
      (u.reg x).toNat = k.toNat ∧ u.pc = s.pc + 2#16

/-- LD Vx, DT; LD DT, Vx; LD ST, Vx (44_keypad_timers.md R193 to R195). -/
def Obligations.TimerTransfers : Prop :=
  ∀ (s : State) (x : Nibble),
    (∃ t, exec (.ldVxDT x) s = .next t ∧ t.reg x = s.dt ∧ (∀ r, r ≠ x → t.reg r = s.reg r) ∧
      t.pc = s.pc + 2#16 ∧ Frame [.pc, .regs] s t) ∧
    (∃ t, exec (.ldDTVx x) s = .next t ∧ t.dt = s.reg x ∧ t.pc = s.pc + 2#16 ∧ Frame [.pc, .dt] s t) ∧
    ∃ t, exec (.ldSTVx x) s = .next t ∧ t.st = s.reg x ∧ t.pc = s.pc + 2#16 ∧ Frame [.pc, .st] s t

/-! ### The host's operations -/

/-- TickTimers (60_exceptions.md R221): each timer down by one, floored at zero, nothing else; also on a halted core. -/
def Obligations.TickCountsDownToZero : Prop :=
  ∀ s : State, ∃ t, applyOp .tickTimers (some s) = .next (some t, .done) ∧
    t.dt.toNat = s.dt.toNat - 1 ∧ t.st.toNat = s.st.toNat - 1 ∧ Frame [.dt, .st] s t

/-- SetKey (60_exceptions.md R222): one live flag, not the snapshot, nothing else. -/
def Obligations.SetKeyWritesOneFlag : Prop :=
  ∀ (s : State) (k : Nibble) (pressed : Bool), ∃ t, applyOp (.setKey k pressed) (some s) = .next (some t, .done) ∧
    t.key k = pressed ∧ (∀ j, j ≠ k → t.key j = s.key j) ∧ Frame [.keys] s t

/-- LoadProgram of an image that fits (60_exceptions.md R223): the bytes verbatim from 0x200, nothing else changed; of a
longer one (R208): LoadError and no change at all (at any time by decision D25, log 21). -/
def Obligations.LoadProgramCopiesOrRefuses : Prop :=
  ∀ (s : State) (image : List Byte),
    (image.length ≤ 3584 → ∃ t, applyOp (.loadProgram image) (some s) = .next (some t, .loaded) ∧
      (∀ (k : Nat) (h : k < image.length), t.mem.read (0x200 + k) = image[k]) ∧
      (∀ a, a < 0x200 ∨ 0x200 + image.length ≤ a → t.mem.read a = s.mem.read a) ∧ Frame [.memory] s t) ∧
    (3584 < image.length → applyOp (.loadProgram image) (some s) = .next (some s, .loadError))

/-- Reset, from any core, reset before or not, halted or not (70_reset_and_hazards.md R240, 10_state.md R39; prev_keys,
the stack entries and the fault record by decision D20, log 20): every piece of state at the table's value. -/
def Obligations.ResetGivesTheTablesValues : Prop :=
  ∀ c : Powered, ∃ t, applyOp .reset c = .next (some t, .done) ∧
    (∀ r, t.reg r = 0#8) ∧ t.i = 0#16 ∧ t.pc = 0x200#16 ∧ t.sp.val = 0 ∧ (∀ j, t.stackAt j = 0#16) ∧
    t.dt = 0#8 ∧ t.st = 0#8 ∧ (∀ y x, t.fb.cell y x = false) ∧ (∀ k, t.key k = false) ∧
    (∀ k, t.prevKey k = false) ∧ t.fault = none ∧
    ∀ a, t.mem.read a = if 0x50 ≤ a ∧ a ≤ 0x9F then Config.font.getD (a - 0x50) 0#8 else 0#8

/-- ReadFramebuffer and ReadTimers change nothing and give 2048 cells, cell (x, y) at 64 y + x, and ST, DT and the fault
record with its code (60_exceptions.md R224, R225, R209; decisions D6, D18, D28, log 1, 10, 21). -/
def Obligations.HostReadsChangeNothing : Prop :=
  ∀ s : State,
    (∃ cells : List Bool, applyOp .readFramebuffer (some s) = .next (some s, .framebuffer cells) ∧
      cells.length = 2048 ∧ ∀ y x, y < 32 → x < 64 → cells[64 * y + x]? = some (s.fb.cell y x)) ∧
    ∃ code : Nat, applyOp .readTimers (some s) = .next (some s, .timers s.st s.dt code s.fault) ∧
      (s.fault = none → code = 0) ∧ (∀ a, s.fault = some (.outOfBounds a) → code = 1) ∧
      (s.fault = some .stackOverflow → code = 2) ∧ (s.fault = some .stackUnderflow → code = 3)

/-- Before the first Reset every operation but Reset is refused by name (70_reset_and_hazards.md R241; decision D20,
log 17). -/
def Obligations.NothingRunsBeforeReset : Prop :=
  ∀ op : HostOp, op ≠ .reset → applyOp op none = .refused .beforeReset

/-- After a Reset no sequence of host operations is ever stopped (60_exceptions.md R202, R204, R220). -/
def Obligations.NoOperationStopsAfterReset : Prop :=
  ∀ ops : List HostOp, ∃ (t : State) (replies : List Reply), runOps (.reset :: ops) none = .next (some t, replies)

/-! ### The invariant -/

/-- Reset's state satisfies the invariant of `StepKeepsTheInvariant` (10_state.md R39; the canonical form of memory in it
is the model's, log 13, DEDUCED). -/
def Obligations.ResetSatisfiesTheInvariant : Prop := Inv State.reset

/-- A step keeps: memory in canonical form, PC at most 0x10FE, stack entries at most 0x1000, a recorded address above
memory (10_state.md R26 and its argument, which is derived; the canonical form is the model's, log 13,
DEDUCED). -/
def Obligations.StepKeepsTheInvariant : Prop :=
  ∀ s t : State, Inv s → step s = .next t → Inv t

/-- In every state a sequence of host operations can reach from a core never reset, 0 <= PC <= 0x10FE and the rest of the
invariant holds (10_state.md R26, which is derived; that memory is in canonical form is the model's, log 13, DEDUCED). It
speaks of runs; the statement from every state is `StepKeepsTheInvariant`. -/
def Obligations.EveryReachableStateSatisfiesTheInvariant : Prop :=
  ∀ (ops : List HostOp) (t : State) (replies : List Reply), runOps ops none = .next (some t, replies) → Inv t
end

