-- ==== Sys2Proof/Laws/Decode.lean ====
section
/-! SUPPORT. The fields of a word written as digits, and the opcode table's masks in terms of the fields. -/

namespace Sys2Proof

/-! ### The word is its fields (30_encoding.md R91) -/

theorem fields_nnn (a : Nibble) (b : Addr12) :
    opField (a ++ b : BitVec (4 + 12)) = a ∧ nnnField (a ++ b : BitVec (4 + 12)) = b := by
  constructor <;> apply BitVec.eq_of_getLsbD_eq <;> intro i hi <;>
    simp only [opField, nnnField, BitVec.getLsbD_extractLsb', BitVec.getLsbD_append] <;>
    interval_cases i <;> simp

theorem fields_xkk (a x : Nibble) (kk : Byte) :
    opField (a ++ x ++ kk : BitVec (4 + 4 + 8)) = a ∧ xField (a ++ x ++ kk : BitVec (4 + 4 + 8)) = x ∧
      kkField (a ++ x ++ kk : BitVec (4 + 4 + 8)) = kk := by
  refine ⟨?_, ?_, ?_⟩ <;> apply BitVec.eq_of_getLsbD_eq <;> intro i hi <;>
    simp only [opField, xField, kkField, BitVec.getLsbD_extractLsb', BitVec.getLsbD_append] <;>
    interval_cases i <;> simp

theorem fields_xyn (a x y n : Nibble) :
    opField (a ++ x ++ y ++ n : BitVec (4 + 4 + 4 + 4)) = a ∧ xField (a ++ x ++ y ++ n : BitVec (4 + 4 + 4 + 4)) = x ∧
      yField (a ++ x ++ y ++ n : BitVec (4 + 4 + 4 + 4)) = y ∧ nField (a ++ x ++ y ++ n : BitVec (4 + 4 + 4 + 4)) = n := by
  refine ⟨?_, ?_, ?_, ?_⟩ <;> apply BitVec.eq_of_getLsbD_eq <;> intro i hi <;>
    simp only [opField, xField, yField, nField, BitVec.getLsbD_extractLsb', BitVec.getLsbD_append] <;>
    interval_cases i <;> simp

theorem word_eq_op_nnn (w : Word) : w = (opField w ++ nnnField w : BitVec (4 + 12)) := by
  apply BitVec.eq_of_getLsbD_eq
  intro i hi
  simp only [opField, nnnField, BitVec.getLsbD_extractLsb', BitVec.getLsbD_append]
  interval_cases i <;> simp

theorem word_eq_op_x_kk (w : Word) : w = (opField w ++ xField w ++ kkField w : BitVec (4 + 4 + 8)) := by
  apply BitVec.eq_of_getLsbD_eq
  intro i hi
  simp only [opField, xField, kkField, BitVec.getLsbD_extractLsb', BitVec.getLsbD_append]
  interval_cases i <;> simp

theorem word_eq_op_x_y_n (w : Word) :
    w = (opField w ++ xField w ++ yField w ++ nField w : BitVec (4 + 4 + 4 + 4)) := by
  apply BitVec.eq_of_getLsbD_eq
  intro i hi
  simp only [opField, xField, yField, nField, BitVec.getLsbD_extractLsb', BitVec.getLsbD_append]
  interval_cases i <;> simp

/-! ### The masks of the opcode table (30_encoding.md R95) -/

theorem and_F000 (w : Word) : w &&& 0xF000#16 = (opField w ++ 0#12 : BitVec (4 + 12)) := by
  apply BitVec.eq_of_getLsbD_eq
  intro i hi
  simp only [opField, BitVec.getLsbD_extractLsb', BitVec.getLsbD_append, BitVec.getLsbD_and]
  interval_cases i <;> simp

theorem and_F00F (w : Word) : w &&& 0xF00F#16 = (opField w ++ 0#8 ++ nField w : BitVec (4 + 8 + 4)) := by
  apply BitVec.eq_of_getLsbD_eq
  intro i hi
  simp only [opField, nField, BitVec.getLsbD_extractLsb', BitVec.getLsbD_append, BitVec.getLsbD_and]
  interval_cases i <;> simp

theorem and_F0FF (w : Word) : w &&& 0xF0FF#16 = (opField w ++ 0#4 ++ kkField w : BitVec (4 + 4 + 8)) := by
  apply BitVec.eq_of_getLsbD_eq
  intro i hi
  simp only [opField, kkField, BitVec.getLsbD_extractLsb', BitVec.getLsbD_append, BitVec.getLsbD_and]
  interval_cases i <;> simp

theorem and_FFFF (w : Word) : w &&& 0xFFFF#16 = w := BitVec.and_allOnes

end Sys2Proof
end

