-- ==== Sys2Proof/Laws/Memory.lean ====
section
/-! SUPPORT. What the memory operations do: a read after a write, and that every operation keeps the canonical form. -/

namespace Sys2Proof.Machine

theorem Memory.read_nil (a : Nat) : Memory.read [] a = initialByte a := rfl

theorem Memory.read_cons (c : Host.Cell) (m : Memory) (a : Nat) :
    Memory.read (c :: m) a = if a = c.1 then c.2 else Memory.read m a := rfl

theorem Memory.read_erase (m : Memory) (a b : Nat) :
    Memory.read (Memory.erase m a) b = if b = a then initialByte a else Memory.read m b := by
  induction m with
  | nil => by_cases h : b = a <;> simp [Memory.erase, Memory.read_nil, h]
  | cons c m ih =>
    unfold Memory.erase at ih ⊢
    by_cases hc : c.1 = a
    · rw [List.filter_cons_of_neg (by simp [hc]), ih, Memory.read_cons]
      by_cases hb : b = a <;> simp [hb, hc]
    · rw [List.filter_cons_of_pos (by simp [hc]), Memory.read_cons, ih, Memory.read_cons]
      by_cases hb : b = a
      · subst hb; simp [Ne.symm hc]
      · simp [hb]

theorem Memory.read_insert (m : Memory) (a b : Nat) (v : Byte) :
    Memory.read (Memory.insert m a v) b = if b = a then v else Memory.read m b := by
  induction m with
  | nil => simp [Memory.insert, Memory.read_cons, Memory.read_nil]
  | cons c m ih =>
    unfold Memory.insert
    by_cases h1 : a < c.1
    · rw [if_pos h1]; rfl
    · rw [if_neg h1]
      by_cases h2 : a = c.1
      · rw [if_pos h2, Memory.read_cons, Memory.read_cons, ← h2]
        by_cases hb : b = a <;> simp [hb]
      · rw [if_neg h2, Memory.read_cons, ih, Memory.read_cons]
        by_cases hb : b = a
        · subst hb; simp [h2]
        · simp [hb]

/-- A write changes exactly the addressed byte (20_memory.md R68). -/
theorem Memory.read_write (m : Memory) (a b : Nat) (v : Byte) :
    Memory.read (Memory.write m a v) b = if b = a ∧ a < 4096 then v else Memory.read m b := by
  unfold Memory.write
  split_ifs with h1 h2 h3 h3 h3
  · rw [Memory.read_erase, if_pos h3.1, h2]
  · rw [Memory.read_erase, if_neg (fun h => h3 ⟨h, h1⟩)]
  · rw [Memory.read_insert, if_pos h3.1]
  · rw [Memory.read_insert, if_neg (fun h => h3 ⟨h, h1⟩)]
  · exact absurd h3.2 h1
  · rfl

/-- Everything a sequence of ascending writes does to one byte. -/
theorem Memory.read_writeList (bs : List Byte) : ∀ (m : Memory) (a b : Nat), a + bs.length ≤ 4096 →
    Memory.read (Memory.writeList m a bs) b =
      if h : a ≤ b ∧ b < a + bs.length then bs[b - a]'(by omega) else Memory.read m b := by
  induction bs with
  | nil => intro m a b _; rw [dif_neg (by simp)]; rfl
  | cons x xs ih =>
    intro m a b h
    simp only [List.length_cons] at h ⊢
    rw [Memory.writeList, ih _ _ _ (by omega), Memory.read_write]
    by_cases hb : b = a
    · subst hb
      rw [dif_neg (by omega), if_pos ⟨rfl, by omega⟩, dif_pos (by omega)]
      simp
    · by_cases hr : a + 1 ≤ b ∧ b < a + 1 + xs.length
      · rw [dif_pos hr, dif_pos (by omega), List.getElem_cons, dif_neg (by omega)]
        congr 1
      · rw [dif_neg hr, if_neg (fun h => hb h.1), dif_neg (by omega)]

theorem Memory.wf_nil : Memory.wf [] := by decide

theorem Memory.wf_erase {m : Memory} (h : m.wf) (a : Nat) : (Memory.erase m a).wf :=
  ⟨h.1.filter _, fun c hc => h.2 c (List.mem_of_mem_filter hc)⟩

theorem Memory.mem_insert {m : Memory} {a : Nat} {v : Byte} {c : Host.Cell} :
    c ∈ Memory.insert m a v → c = (a, v) ∨ c ∈ m := by
  induction m with
  | nil => intro h; simp [Memory.insert] at h; exact .inl h
  | cons d m ih =>
    unfold Memory.insert
    split_ifs with h1 h2
    · intro h; simpa using h
    · intro h; rw [List.mem_cons] at h ⊢; tauto
    · intro h
      rw [List.mem_cons] at h ⊢
      rcases h with h | h
      · exact .inr (.inl h)
      · rcases ih h with h | h <;> tauto

theorem Memory.wf_insert {m : Memory} (h : m.wf) {a : Nat} {v : Byte} (ha : a < 4096) (hv : v ≠ initialByte a) :
    (Memory.insert m a v).wf := by
  refine ⟨?_, ?_⟩
  · have hp := h.1
    clear h
    induction m with
    | nil => simp [Memory.insert]
    | cons d m ih =>
      rw [List.pairwise_cons] at hp
      unfold Memory.insert
      split_ifs with h1 h2
      · rw [List.pairwise_cons, List.pairwise_cons]
        refine ⟨?_, hp⟩
        intro c hc
        rcases List.mem_cons.1 hc with rfl | hc
        · exact h1
        · exact lt_trans h1 (hp.1 c hc)
      · subst h2; exact List.pairwise_cons.2 ⟨hp.1, hp.2⟩
      · refine List.pairwise_cons.2 ⟨?_, ih hp.2⟩
        intro c hc
        rcases Memory.mem_insert hc with rfl | hc
        · simp only at h1 h2 ⊢; omega
        · exact hp.1 c hc
  · intro c hc
    rcases Memory.mem_insert hc with rfl | hc
    · exact ⟨ha, hv⟩
    · exact h.2 c hc

/-- A write keeps the canonical form. -/
theorem Memory.wf_write {m : Memory} (h : m.wf) (a : Nat) (v : Byte) : (Memory.write m a v).wf := by
  unfold Memory.write
  split_ifs with h1 h2
  · exact Memory.wf_erase h a
  · exact Memory.wf_insert h h1 h2
  · exact h

/-- A sequence of writes keeps the canonical form. -/
theorem Memory.wf_writeList (bs : List Byte) : ∀ {m : Memory}, m.wf → ∀ a, (Memory.writeList m a bs).wf := by
  induction bs with
  | nil => intro m h _; exact h
  | cons x xs ih => intro m h a; exact ih (Memory.wf_write h a x) (a + 1)

theorem Memory.read_of_lt {m : Memory} {a : Nat} (h : ∀ c ∈ m, a < c.1) : m.read a = initialByte a := by
  induction m with
  | nil => rfl
  | cons c m ih =>
    rw [Memory.read_cons, if_neg (by have := h c (by simp); omega), ih (fun d hd => h d (by simp [hd]))]

/-- The canonical form is one: two memories that have it and read the same everywhere are the same list. -/
theorem Memory.eq_of_read_eq : ∀ {m m' : Memory}, m.wf → m'.wf → (∀ a, m.read a = m'.read a) → m = m'
  | [], [], _, _, _ => rfl
  | [], d :: m', _, h', e => by
    have := e d.1
    rw [Memory.read_cons, if_pos rfl] at this
    exact absurd this.symm (h'.2 d (by simp)).2
  | c :: m, [], h, _, e => by
    have := e c.1
    rw [Memory.read_cons, if_pos rfl] at this
    exact absurd this (h.2 c (by simp)).2
  | c :: m, d :: m', h, h', e => by
    have hp := List.pairwise_cons.1 h.1
    have hp' := List.pairwise_cons.1 h'.1
    have first : c.1 = d.1 := by
      rcases Nat.lt_trichotomy c.1 d.1 with lt | eq | gt
      · have := e c.1
        rw [Memory.read_cons, if_pos rfl, Memory.read_of_lt (m := d :: m')] at this
        · exact absurd this (h.2 c (by simp)).2
        · intro x hx
          rcases List.mem_cons.1 hx with rfl | hx
          · exact lt
          · exact lt_trans lt (hp'.1 x hx)
      · exact eq
      · have := e d.1
        rw [Memory.read_cons (c := d), if_pos rfl, Memory.read_of_lt (m := c :: m)] at this
        · exact absurd this.symm (h'.2 d (by simp)).2
        · intro x hx
          rcases List.mem_cons.1 hx with rfl | hx
          · exact gt
          · exact lt_trans gt (hp.1 x hx)
    have second : c.2 = d.2 := by
      have := e c.1
      rwa [Memory.read_cons, if_pos rfl, Memory.read_cons, if_pos first] at this
    have rest : m = m' := by
      refine Memory.eq_of_read_eq ⟨hp.2, fun x hx => h.2 x (by simp [hx])⟩ ⟨hp'.2, fun x hx => h'.2 x (by simp [hx])⟩ ?_
      intro a
      by_cases ha : a = c.1
      · rw [ha, Memory.read_of_lt hp.1, first, Memory.read_of_lt hp'.1]
      · have := e a
        rwa [Memory.read_cons, if_neg ha, Memory.read_cons, if_neg (by rw [← first]; exact ha)] at this
    rw [show c = d from Prod.ext first second, rest]

/-- Reset's memory has the canonical form. -/
theorem State.reset_mem_wf : State.reset.mem.wf := Memory.wf_nil

end Sys2Proof.Machine
end

