-- ==== Sys2Proof/Laws/State.lean ====
section
/-! SUPPORT. One lemma per field per update of State, true by rfl, so that no proof unfolds a record update. -/

namespace Sys2Proof.Machine

/-! ### setV -/

@[simp] theorem State.setV_v (s : State) (v : Vector Byte 16) : (s.setV v).v = v := rfl
@[simp] theorem State.setV_i (s : State) (v : Vector Byte 16) : (s.setV v).i = s.i := rfl
@[simp] theorem State.setV_pc (s : State) (v : Vector Byte 16) : (s.setV v).pc = s.pc := rfl
@[simp] theorem State.setV_sp (s : State) (v : Vector Byte 16) : (s.setV v).sp = s.sp := rfl
@[simp] theorem State.setV_stack (s : State) (v : Vector Byte 16) : (s.setV v).stack = s.stack := rfl
@[simp] theorem State.setV_dt (s : State) (v : Vector Byte 16) : (s.setV v).dt = s.dt := rfl
@[simp] theorem State.setV_st (s : State) (v : Vector Byte 16) : (s.setV v).st = s.st := rfl
@[simp] theorem State.setV_fb (s : State) (v : Vector Byte 16) : (s.setV v).fb = s.fb := rfl
@[simp] theorem State.setV_keys (s : State) (v : Vector Byte 16) : (s.setV v).keys = s.keys := rfl
@[simp] theorem State.setV_prevKeys (s : State) (v : Vector Byte 16) : (s.setV v).prevKeys = s.prevKeys := rfl
@[simp] theorem State.setV_mem (s : State) (v : Vector Byte 16) : (s.setV v).mem = s.mem := rfl
@[simp] theorem State.setV_fault (s : State) (v : Vector Byte 16) : (s.setV v).fault = s.fault := rfl
@[simp] theorem State.setV_rndIn (s : State) (v : Vector Byte 16) : (s.setV v).rndIn = s.rndIn := rfl
@[simp] theorem State.setV_rndCount (s : State) (v : Vector Byte 16) : (s.setV v).rndCount = s.rndCount := rfl

/-! ### setI -/

@[simp] theorem State.setI_v (s : State) (a : Word) : (s.setI a).v = s.v := rfl
@[simp] theorem State.setI_i (s : State) (a : Word) : (s.setI a).i = a := rfl
@[simp] theorem State.setI_pc (s : State) (a : Word) : (s.setI a).pc = s.pc := rfl
@[simp] theorem State.setI_sp (s : State) (a : Word) : (s.setI a).sp = s.sp := rfl
@[simp] theorem State.setI_stack (s : State) (a : Word) : (s.setI a).stack = s.stack := rfl
@[simp] theorem State.setI_dt (s : State) (a : Word) : (s.setI a).dt = s.dt := rfl
@[simp] theorem State.setI_st (s : State) (a : Word) : (s.setI a).st = s.st := rfl
@[simp] theorem State.setI_fb (s : State) (a : Word) : (s.setI a).fb = s.fb := rfl
@[simp] theorem State.setI_keys (s : State) (a : Word) : (s.setI a).keys = s.keys := rfl
@[simp] theorem State.setI_prevKeys (s : State) (a : Word) : (s.setI a).prevKeys = s.prevKeys := rfl
@[simp] theorem State.setI_mem (s : State) (a : Word) : (s.setI a).mem = s.mem := rfl
@[simp] theorem State.setI_fault (s : State) (a : Word) : (s.setI a).fault = s.fault := rfl
@[simp] theorem State.setI_rndIn (s : State) (a : Word) : (s.setI a).rndIn = s.rndIn := rfl
@[simp] theorem State.setI_rndCount (s : State) (a : Word) : (s.setI a).rndCount = s.rndCount := rfl

/-! ### setPc -/

@[simp] theorem State.setPc_v (s : State) (a : Word) : (s.setPc a).v = s.v := rfl
@[simp] theorem State.setPc_i (s : State) (a : Word) : (s.setPc a).i = s.i := rfl
@[simp] theorem State.setPc_pc (s : State) (a : Word) : (s.setPc a).pc = a := rfl
@[simp] theorem State.setPc_sp (s : State) (a : Word) : (s.setPc a).sp = s.sp := rfl
@[simp] theorem State.setPc_stack (s : State) (a : Word) : (s.setPc a).stack = s.stack := rfl
@[simp] theorem State.setPc_dt (s : State) (a : Word) : (s.setPc a).dt = s.dt := rfl
@[simp] theorem State.setPc_st (s : State) (a : Word) : (s.setPc a).st = s.st := rfl
@[simp] theorem State.setPc_fb (s : State) (a : Word) : (s.setPc a).fb = s.fb := rfl
@[simp] theorem State.setPc_keys (s : State) (a : Word) : (s.setPc a).keys = s.keys := rfl
@[simp] theorem State.setPc_prevKeys (s : State) (a : Word) : (s.setPc a).prevKeys = s.prevKeys := rfl
@[simp] theorem State.setPc_mem (s : State) (a : Word) : (s.setPc a).mem = s.mem := rfl
@[simp] theorem State.setPc_fault (s : State) (a : Word) : (s.setPc a).fault = s.fault := rfl
@[simp] theorem State.setPc_rndIn (s : State) (a : Word) : (s.setPc a).rndIn = s.rndIn := rfl
@[simp] theorem State.setPc_rndCount (s : State) (a : Word) : (s.setPc a).rndCount = s.rndCount := rfl

/-! ### setSp -/

@[simp] theorem State.setSp_v (s : State) (n : Fin 17) : (s.setSp n).v = s.v := rfl
@[simp] theorem State.setSp_i (s : State) (n : Fin 17) : (s.setSp n).i = s.i := rfl
@[simp] theorem State.setSp_pc (s : State) (n : Fin 17) : (s.setSp n).pc = s.pc := rfl
@[simp] theorem State.setSp_sp (s : State) (n : Fin 17) : (s.setSp n).sp = n := rfl
@[simp] theorem State.setSp_stack (s : State) (n : Fin 17) : (s.setSp n).stack = s.stack := rfl
@[simp] theorem State.setSp_dt (s : State) (n : Fin 17) : (s.setSp n).dt = s.dt := rfl
@[simp] theorem State.setSp_st (s : State) (n : Fin 17) : (s.setSp n).st = s.st := rfl
@[simp] theorem State.setSp_fb (s : State) (n : Fin 17) : (s.setSp n).fb = s.fb := rfl
@[simp] theorem State.setSp_keys (s : State) (n : Fin 17) : (s.setSp n).keys = s.keys := rfl
@[simp] theorem State.setSp_prevKeys (s : State) (n : Fin 17) : (s.setSp n).prevKeys = s.prevKeys := rfl
@[simp] theorem State.setSp_mem (s : State) (n : Fin 17) : (s.setSp n).mem = s.mem := rfl
@[simp] theorem State.setSp_fault (s : State) (n : Fin 17) : (s.setSp n).fault = s.fault := rfl
@[simp] theorem State.setSp_rndIn (s : State) (n : Fin 17) : (s.setSp n).rndIn = s.rndIn := rfl
@[simp] theorem State.setSp_rndCount (s : State) (n : Fin 17) : (s.setSp n).rndCount = s.rndCount := rfl

/-! ### setStack -/

@[simp] theorem State.setStack_v (s : State) (e : Vector Word 16) : (s.setStack e).v = s.v := rfl
@[simp] theorem State.setStack_i (s : State) (e : Vector Word 16) : (s.setStack e).i = s.i := rfl
@[simp] theorem State.setStack_pc (s : State) (e : Vector Word 16) : (s.setStack e).pc = s.pc := rfl
@[simp] theorem State.setStack_sp (s : State) (e : Vector Word 16) : (s.setStack e).sp = s.sp := rfl
@[simp] theorem State.setStack_stack (s : State) (e : Vector Word 16) : (s.setStack e).stack = e := rfl
@[simp] theorem State.setStack_dt (s : State) (e : Vector Word 16) : (s.setStack e).dt = s.dt := rfl
@[simp] theorem State.setStack_st (s : State) (e : Vector Word 16) : (s.setStack e).st = s.st := rfl
@[simp] theorem State.setStack_fb (s : State) (e : Vector Word 16) : (s.setStack e).fb = s.fb := rfl
@[simp] theorem State.setStack_keys (s : State) (e : Vector Word 16) : (s.setStack e).keys = s.keys := rfl
@[simp] theorem State.setStack_prevKeys (s : State) (e : Vector Word 16) : (s.setStack e).prevKeys = s.prevKeys := rfl
@[simp] theorem State.setStack_mem (s : State) (e : Vector Word 16) : (s.setStack e).mem = s.mem := rfl
@[simp] theorem State.setStack_fault (s : State) (e : Vector Word 16) : (s.setStack e).fault = s.fault := rfl
@[simp] theorem State.setStack_rndIn (s : State) (e : Vector Word 16) : (s.setStack e).rndIn = s.rndIn := rfl
@[simp] theorem State.setStack_rndCount (s : State) (e : Vector Word 16) : (s.setStack e).rndCount = s.rndCount := rfl

/-! ### setDt -/

@[simp] theorem State.setDt_v (s : State) (b : Byte) : (s.setDt b).v = s.v := rfl
@[simp] theorem State.setDt_i (s : State) (b : Byte) : (s.setDt b).i = s.i := rfl
@[simp] theorem State.setDt_pc (s : State) (b : Byte) : (s.setDt b).pc = s.pc := rfl
@[simp] theorem State.setDt_sp (s : State) (b : Byte) : (s.setDt b).sp = s.sp := rfl
@[simp] theorem State.setDt_stack (s : State) (b : Byte) : (s.setDt b).stack = s.stack := rfl
@[simp] theorem State.setDt_dt (s : State) (b : Byte) : (s.setDt b).dt = b := rfl
@[simp] theorem State.setDt_st (s : State) (b : Byte) : (s.setDt b).st = s.st := rfl
@[simp] theorem State.setDt_fb (s : State) (b : Byte) : (s.setDt b).fb = s.fb := rfl
@[simp] theorem State.setDt_keys (s : State) (b : Byte) : (s.setDt b).keys = s.keys := rfl
@[simp] theorem State.setDt_prevKeys (s : State) (b : Byte) : (s.setDt b).prevKeys = s.prevKeys := rfl
@[simp] theorem State.setDt_mem (s : State) (b : Byte) : (s.setDt b).mem = s.mem := rfl
@[simp] theorem State.setDt_fault (s : State) (b : Byte) : (s.setDt b).fault = s.fault := rfl
@[simp] theorem State.setDt_rndIn (s : State) (b : Byte) : (s.setDt b).rndIn = s.rndIn := rfl
@[simp] theorem State.setDt_rndCount (s : State) (b : Byte) : (s.setDt b).rndCount = s.rndCount := rfl

/-! ### setSt -/

@[simp] theorem State.setSt_v (s : State) (b : Byte) : (s.setSt b).v = s.v := rfl
@[simp] theorem State.setSt_i (s : State) (b : Byte) : (s.setSt b).i = s.i := rfl
@[simp] theorem State.setSt_pc (s : State) (b : Byte) : (s.setSt b).pc = s.pc := rfl
@[simp] theorem State.setSt_sp (s : State) (b : Byte) : (s.setSt b).sp = s.sp := rfl
@[simp] theorem State.setSt_stack (s : State) (b : Byte) : (s.setSt b).stack = s.stack := rfl
@[simp] theorem State.setSt_dt (s : State) (b : Byte) : (s.setSt b).dt = s.dt := rfl
@[simp] theorem State.setSt_st (s : State) (b : Byte) : (s.setSt b).st = b := rfl
@[simp] theorem State.setSt_fb (s : State) (b : Byte) : (s.setSt b).fb = s.fb := rfl
@[simp] theorem State.setSt_keys (s : State) (b : Byte) : (s.setSt b).keys = s.keys := rfl
@[simp] theorem State.setSt_prevKeys (s : State) (b : Byte) : (s.setSt b).prevKeys = s.prevKeys := rfl
@[simp] theorem State.setSt_mem (s : State) (b : Byte) : (s.setSt b).mem = s.mem := rfl
@[simp] theorem State.setSt_fault (s : State) (b : Byte) : (s.setSt b).fault = s.fault := rfl
@[simp] theorem State.setSt_rndIn (s : State) (b : Byte) : (s.setSt b).rndIn = s.rndIn := rfl
@[simp] theorem State.setSt_rndCount (s : State) (b : Byte) : (s.setSt b).rndCount = s.rndCount := rfl

/-! ### setFb -/

@[simp] theorem State.setFb_v (s : State) (f : Framebuffer) : (s.setFb f).v = s.v := rfl
@[simp] theorem State.setFb_i (s : State) (f : Framebuffer) : (s.setFb f).i = s.i := rfl
@[simp] theorem State.setFb_pc (s : State) (f : Framebuffer) : (s.setFb f).pc = s.pc := rfl
@[simp] theorem State.setFb_sp (s : State) (f : Framebuffer) : (s.setFb f).sp = s.sp := rfl
@[simp] theorem State.setFb_stack (s : State) (f : Framebuffer) : (s.setFb f).stack = s.stack := rfl
@[simp] theorem State.setFb_dt (s : State) (f : Framebuffer) : (s.setFb f).dt = s.dt := rfl
@[simp] theorem State.setFb_st (s : State) (f : Framebuffer) : (s.setFb f).st = s.st := rfl
@[simp] theorem State.setFb_fb (s : State) (f : Framebuffer) : (s.setFb f).fb = f := rfl
@[simp] theorem State.setFb_keys (s : State) (f : Framebuffer) : (s.setFb f).keys = s.keys := rfl
@[simp] theorem State.setFb_prevKeys (s : State) (f : Framebuffer) : (s.setFb f).prevKeys = s.prevKeys := rfl
@[simp] theorem State.setFb_mem (s : State) (f : Framebuffer) : (s.setFb f).mem = s.mem := rfl
@[simp] theorem State.setFb_fault (s : State) (f : Framebuffer) : (s.setFb f).fault = s.fault := rfl
@[simp] theorem State.setFb_rndIn (s : State) (f : Framebuffer) : (s.setFb f).rndIn = s.rndIn := rfl
@[simp] theorem State.setFb_rndCount (s : State) (f : Framebuffer) : (s.setFb f).rndCount = s.rndCount := rfl

/-! ### setKeys -/

@[simp] theorem State.setKeys_v (s : State) (k : Vector Bool 16) : (s.setKeys k).v = s.v := rfl
@[simp] theorem State.setKeys_i (s : State) (k : Vector Bool 16) : (s.setKeys k).i = s.i := rfl
@[simp] theorem State.setKeys_pc (s : State) (k : Vector Bool 16) : (s.setKeys k).pc = s.pc := rfl
@[simp] theorem State.setKeys_sp (s : State) (k : Vector Bool 16) : (s.setKeys k).sp = s.sp := rfl
@[simp] theorem State.setKeys_stack (s : State) (k : Vector Bool 16) : (s.setKeys k).stack = s.stack := rfl
@[simp] theorem State.setKeys_dt (s : State) (k : Vector Bool 16) : (s.setKeys k).dt = s.dt := rfl
@[simp] theorem State.setKeys_st (s : State) (k : Vector Bool 16) : (s.setKeys k).st = s.st := rfl
@[simp] theorem State.setKeys_fb (s : State) (k : Vector Bool 16) : (s.setKeys k).fb = s.fb := rfl
@[simp] theorem State.setKeys_keys (s : State) (k : Vector Bool 16) : (s.setKeys k).keys = k := rfl
@[simp] theorem State.setKeys_prevKeys (s : State) (k : Vector Bool 16) : (s.setKeys k).prevKeys = s.prevKeys := rfl
@[simp] theorem State.setKeys_mem (s : State) (k : Vector Bool 16) : (s.setKeys k).mem = s.mem := rfl
@[simp] theorem State.setKeys_fault (s : State) (k : Vector Bool 16) : (s.setKeys k).fault = s.fault := rfl
@[simp] theorem State.setKeys_rndIn (s : State) (k : Vector Bool 16) : (s.setKeys k).rndIn = s.rndIn := rfl
@[simp] theorem State.setKeys_rndCount (s : State) (k : Vector Bool 16) : (s.setKeys k).rndCount = s.rndCount := rfl

/-! ### setPrevKeys -/

@[simp] theorem State.setPrevKeys_v (s : State) (k : Vector Bool 16) : (s.setPrevKeys k).v = s.v := rfl
@[simp] theorem State.setPrevKeys_i (s : State) (k : Vector Bool 16) : (s.setPrevKeys k).i = s.i := rfl
@[simp] theorem State.setPrevKeys_pc (s : State) (k : Vector Bool 16) : (s.setPrevKeys k).pc = s.pc := rfl
@[simp] theorem State.setPrevKeys_sp (s : State) (k : Vector Bool 16) : (s.setPrevKeys k).sp = s.sp := rfl
@[simp] theorem State.setPrevKeys_stack (s : State) (k : Vector Bool 16) : (s.setPrevKeys k).stack = s.stack := rfl
@[simp] theorem State.setPrevKeys_dt (s : State) (k : Vector Bool 16) : (s.setPrevKeys k).dt = s.dt := rfl
@[simp] theorem State.setPrevKeys_st (s : State) (k : Vector Bool 16) : (s.setPrevKeys k).st = s.st := rfl
@[simp] theorem State.setPrevKeys_fb (s : State) (k : Vector Bool 16) : (s.setPrevKeys k).fb = s.fb := rfl
@[simp] theorem State.setPrevKeys_keys (s : State) (k : Vector Bool 16) : (s.setPrevKeys k).keys = s.keys := rfl
@[simp] theorem State.setPrevKeys_prevKeys (s : State) (k : Vector Bool 16) : (s.setPrevKeys k).prevKeys = k := rfl
@[simp] theorem State.setPrevKeys_mem (s : State) (k : Vector Bool 16) : (s.setPrevKeys k).mem = s.mem := rfl
@[simp] theorem State.setPrevKeys_fault (s : State) (k : Vector Bool 16) : (s.setPrevKeys k).fault = s.fault := rfl
@[simp] theorem State.setPrevKeys_rndIn (s : State) (k : Vector Bool 16) : (s.setPrevKeys k).rndIn = s.rndIn := rfl
@[simp] theorem State.setPrevKeys_rndCount (s : State) (k : Vector Bool 16) : (s.setPrevKeys k).rndCount = s.rndCount := rfl

/-! ### setMem -/

@[simp] theorem State.setMem_v (s : State) (m : Memory) : (s.setMem m).v = s.v := rfl
@[simp] theorem State.setMem_i (s : State) (m : Memory) : (s.setMem m).i = s.i := rfl
@[simp] theorem State.setMem_pc (s : State) (m : Memory) : (s.setMem m).pc = s.pc := rfl
@[simp] theorem State.setMem_sp (s : State) (m : Memory) : (s.setMem m).sp = s.sp := rfl
@[simp] theorem State.setMem_stack (s : State) (m : Memory) : (s.setMem m).stack = s.stack := rfl
@[simp] theorem State.setMem_dt (s : State) (m : Memory) : (s.setMem m).dt = s.dt := rfl
@[simp] theorem State.setMem_st (s : State) (m : Memory) : (s.setMem m).st = s.st := rfl
@[simp] theorem State.setMem_fb (s : State) (m : Memory) : (s.setMem m).fb = s.fb := rfl
@[simp] theorem State.setMem_keys (s : State) (m : Memory) : (s.setMem m).keys = s.keys := rfl
@[simp] theorem State.setMem_prevKeys (s : State) (m : Memory) : (s.setMem m).prevKeys = s.prevKeys := rfl
@[simp] theorem State.setMem_mem (s : State) (m : Memory) : (s.setMem m).mem = m := rfl
@[simp] theorem State.setMem_fault (s : State) (m : Memory) : (s.setMem m).fault = s.fault := rfl
@[simp] theorem State.setMem_rndIn (s : State) (m : Memory) : (s.setMem m).rndIn = s.rndIn := rfl
@[simp] theorem State.setMem_rndCount (s : State) (m : Memory) : (s.setMem m).rndCount = s.rndCount := rfl

/-! ### setFault -/

@[simp] theorem State.setFault_v (s : State) (f : Option Fault) : (s.setFault f).v = s.v := rfl
@[simp] theorem State.setFault_i (s : State) (f : Option Fault) : (s.setFault f).i = s.i := rfl
@[simp] theorem State.setFault_pc (s : State) (f : Option Fault) : (s.setFault f).pc = s.pc := rfl
@[simp] theorem State.setFault_sp (s : State) (f : Option Fault) : (s.setFault f).sp = s.sp := rfl
@[simp] theorem State.setFault_stack (s : State) (f : Option Fault) : (s.setFault f).stack = s.stack := rfl
@[simp] theorem State.setFault_dt (s : State) (f : Option Fault) : (s.setFault f).dt = s.dt := rfl
@[simp] theorem State.setFault_st (s : State) (f : Option Fault) : (s.setFault f).st = s.st := rfl
@[simp] theorem State.setFault_fb (s : State) (f : Option Fault) : (s.setFault f).fb = s.fb := rfl
@[simp] theorem State.setFault_keys (s : State) (f : Option Fault) : (s.setFault f).keys = s.keys := rfl
@[simp] theorem State.setFault_prevKeys (s : State) (f : Option Fault) : (s.setFault f).prevKeys = s.prevKeys := rfl
@[simp] theorem State.setFault_mem (s : State) (f : Option Fault) : (s.setFault f).mem = s.mem := rfl
@[simp] theorem State.setFault_fault (s : State) (f : Option Fault) : (s.setFault f).fault = f := rfl
@[simp] theorem State.setFault_rndIn (s : State) (f : Option Fault) : (s.setFault f).rndIn = s.rndIn := rfl
@[simp] theorem State.setFault_rndCount (s : State) (f : Option Fault) : (s.setFault f).rndCount = s.rndCount := rfl

/-! ### setRndIn -/

@[simp] theorem State.setRndIn_v (s : State) (r : Option Byte) : (s.setRndIn r).v = s.v := rfl
@[simp] theorem State.setRndIn_i (s : State) (r : Option Byte) : (s.setRndIn r).i = s.i := rfl
@[simp] theorem State.setRndIn_pc (s : State) (r : Option Byte) : (s.setRndIn r).pc = s.pc := rfl
@[simp] theorem State.setRndIn_sp (s : State) (r : Option Byte) : (s.setRndIn r).sp = s.sp := rfl
@[simp] theorem State.setRndIn_stack (s : State) (r : Option Byte) : (s.setRndIn r).stack = s.stack := rfl
@[simp] theorem State.setRndIn_dt (s : State) (r : Option Byte) : (s.setRndIn r).dt = s.dt := rfl
@[simp] theorem State.setRndIn_st (s : State) (r : Option Byte) : (s.setRndIn r).st = s.st := rfl
@[simp] theorem State.setRndIn_fb (s : State) (r : Option Byte) : (s.setRndIn r).fb = s.fb := rfl
@[simp] theorem State.setRndIn_keys (s : State) (r : Option Byte) : (s.setRndIn r).keys = s.keys := rfl
@[simp] theorem State.setRndIn_prevKeys (s : State) (r : Option Byte) : (s.setRndIn r).prevKeys = s.prevKeys := rfl
@[simp] theorem State.setRndIn_mem (s : State) (r : Option Byte) : (s.setRndIn r).mem = s.mem := rfl
@[simp] theorem State.setRndIn_fault (s : State) (r : Option Byte) : (s.setRndIn r).fault = s.fault := rfl
@[simp] theorem State.setRndIn_rndIn (s : State) (r : Option Byte) : (s.setRndIn r).rndIn = r := rfl
@[simp] theorem State.setRndIn_rndCount (s : State) (r : Option Byte) : (s.setRndIn r).rndCount = s.rndCount := rfl

/-! ### setRndCount -/

@[simp] theorem State.setRndCount_v (s : State) (n : Nat) : (s.setRndCount n).v = s.v := rfl
@[simp] theorem State.setRndCount_i (s : State) (n : Nat) : (s.setRndCount n).i = s.i := rfl
@[simp] theorem State.setRndCount_pc (s : State) (n : Nat) : (s.setRndCount n).pc = s.pc := rfl
@[simp] theorem State.setRndCount_sp (s : State) (n : Nat) : (s.setRndCount n).sp = s.sp := rfl
@[simp] theorem State.setRndCount_stack (s : State) (n : Nat) : (s.setRndCount n).stack = s.stack := rfl
@[simp] theorem State.setRndCount_dt (s : State) (n : Nat) : (s.setRndCount n).dt = s.dt := rfl
@[simp] theorem State.setRndCount_st (s : State) (n : Nat) : (s.setRndCount n).st = s.st := rfl
@[simp] theorem State.setRndCount_fb (s : State) (n : Nat) : (s.setRndCount n).fb = s.fb := rfl
@[simp] theorem State.setRndCount_keys (s : State) (n : Nat) : (s.setRndCount n).keys = s.keys := rfl
@[simp] theorem State.setRndCount_prevKeys (s : State) (n : Nat) : (s.setRndCount n).prevKeys = s.prevKeys := rfl
@[simp] theorem State.setRndCount_mem (s : State) (n : Nat) : (s.setRndCount n).mem = s.mem := rfl
@[simp] theorem State.setRndCount_fault (s : State) (n : Nat) : (s.setRndCount n).fault = s.fault := rfl
@[simp] theorem State.setRndCount_rndIn (s : State) (n : Nat) : (s.setRndCount n).rndIn = s.rndIn := rfl
@[simp] theorem State.setRndCount_rndCount (s : State) (n : Nat) : (s.setRndCount n).rndCount = n := rfl

/-! ### advance -/

@[simp] theorem State.advance_v (s : State) : s.advance.v = s.v := rfl
@[simp] theorem State.advance_i (s : State) : s.advance.i = s.i := rfl
@[simp] theorem State.advance_pc (s : State) : s.advance.pc = s.pc + 2#16 := rfl
@[simp] theorem State.advance_sp (s : State) : s.advance.sp = s.sp := rfl
@[simp] theorem State.advance_stack (s : State) : s.advance.stack = s.stack := rfl
@[simp] theorem State.advance_dt (s : State) : s.advance.dt = s.dt := rfl
@[simp] theorem State.advance_st (s : State) : s.advance.st = s.st := rfl
@[simp] theorem State.advance_fb (s : State) : s.advance.fb = s.fb := rfl
@[simp] theorem State.advance_keys (s : State) : s.advance.keys = s.keys := rfl
@[simp] theorem State.advance_prevKeys (s : State) : s.advance.prevKeys = s.prevKeys := rfl
@[simp] theorem State.advance_mem (s : State) : s.advance.mem = s.mem := rfl
@[simp] theorem State.advance_fault (s : State) : s.advance.fault = s.fault := rfl
@[simp] theorem State.advance_rndIn (s : State) : s.advance.rndIn = s.rndIn := rfl
@[simp] theorem State.advance_rndCount (s : State) : s.advance.rndCount = s.rndCount := rfl

/-! ### setReg -/

@[simp] theorem State.setReg_v (s : State) (x : Nibble) (b : Byte) : (s.setReg x b).v = s.v.set x.toNat b := rfl
@[simp] theorem State.setReg_i (s : State) (x : Nibble) (b : Byte) : (s.setReg x b).i = s.i := rfl
@[simp] theorem State.setReg_pc (s : State) (x : Nibble) (b : Byte) : (s.setReg x b).pc = s.pc := rfl
@[simp] theorem State.setReg_sp (s : State) (x : Nibble) (b : Byte) : (s.setReg x b).sp = s.sp := rfl
@[simp] theorem State.setReg_stack (s : State) (x : Nibble) (b : Byte) : (s.setReg x b).stack = s.stack := rfl
@[simp] theorem State.setReg_dt (s : State) (x : Nibble) (b : Byte) : (s.setReg x b).dt = s.dt := rfl
@[simp] theorem State.setReg_st (s : State) (x : Nibble) (b : Byte) : (s.setReg x b).st = s.st := rfl
@[simp] theorem State.setReg_fb (s : State) (x : Nibble) (b : Byte) : (s.setReg x b).fb = s.fb := rfl
@[simp] theorem State.setReg_keys (s : State) (x : Nibble) (b : Byte) : (s.setReg x b).keys = s.keys := rfl
@[simp] theorem State.setReg_prevKeys (s : State) (x : Nibble) (b : Byte) : (s.setReg x b).prevKeys = s.prevKeys := rfl
@[simp] theorem State.setReg_mem (s : State) (x : Nibble) (b : Byte) : (s.setReg x b).mem = s.mem := rfl
@[simp] theorem State.setReg_fault (s : State) (x : Nibble) (b : Byte) : (s.setReg x b).fault = s.fault := rfl
@[simp] theorem State.setReg_rndIn (s : State) (x : Nibble) (b : Byte) : (s.setReg x b).rndIn = s.rndIn := rfl
@[simp] theorem State.setReg_rndCount (s : State) (x : Nibble) (b : Byte) : (s.setReg x b).rndCount = s.rndCount := rfl

/-! ### push and pop -/

@[simp] theorem State.push_v (s : State) (a : Word) : (s.push a).v = s.v := rfl
@[simp] theorem State.push_i (s : State) (a : Word) : (s.push a).i = s.i := rfl
@[simp] theorem State.push_pc (s : State) (a : Word) : (s.push a).pc = s.pc := rfl
@[simp] theorem State.push_sp (s : State) (a : Word) : (s.push a).sp = s.sp + 1 := rfl
@[simp] theorem State.push_stack (s : State) (a : Word) : (s.push a).stack = s.stack.setIfInBounds s.sp.val a := rfl
@[simp] theorem State.push_dt (s : State) (a : Word) : (s.push a).dt = s.dt := rfl
@[simp] theorem State.push_st (s : State) (a : Word) : (s.push a).st = s.st := rfl
@[simp] theorem State.push_fb (s : State) (a : Word) : (s.push a).fb = s.fb := rfl
@[simp] theorem State.push_keys (s : State) (a : Word) : (s.push a).keys = s.keys := rfl
@[simp] theorem State.push_prevKeys (s : State) (a : Word) : (s.push a).prevKeys = s.prevKeys := rfl
@[simp] theorem State.push_mem (s : State) (a : Word) : (s.push a).mem = s.mem := rfl
@[simp] theorem State.push_fault (s : State) (a : Word) : (s.push a).fault = s.fault := rfl
@[simp] theorem State.push_rndIn (s : State) (a : Word) : (s.push a).rndIn = s.rndIn := rfl
@[simp] theorem State.push_rndCount (s : State) (a : Word) : (s.push a).rndCount = s.rndCount := rfl
@[simp] theorem State.pop_v (s : State) : s.pop.v = s.v := rfl
@[simp] theorem State.pop_i (s : State) : s.pop.i = s.i := rfl
@[simp] theorem State.pop_pc (s : State) : s.pop.pc = s.pc := rfl
@[simp] theorem State.pop_sp (s : State) : s.pop.sp = s.sp - 1 := rfl
@[simp] theorem State.pop_stack (s : State) : s.pop.stack = s.stack := rfl
@[simp] theorem State.pop_dt (s : State) : s.pop.dt = s.dt := rfl
@[simp] theorem State.pop_st (s : State) : s.pop.st = s.st := rfl
@[simp] theorem State.pop_fb (s : State) : s.pop.fb = s.fb := rfl
@[simp] theorem State.pop_keys (s : State) : s.pop.keys = s.keys := rfl
@[simp] theorem State.pop_prevKeys (s : State) : s.pop.prevKeys = s.prevKeys := rfl
@[simp] theorem State.pop_mem (s : State) : s.pop.mem = s.mem := rfl
@[simp] theorem State.pop_fault (s : State) : s.pop.fault = s.fault := rfl
@[simp] theorem State.pop_rndIn (s : State) : s.pop.rndIn = s.rndIn := rfl
@[simp] theorem State.pop_rndCount (s : State) : s.pop.rndCount = s.rndCount := rfl

/-! ### skipIf and useRnd -/

@[simp] theorem State.skipIf_v (s : State) (c : Bool) : (s.skipIf c).v = s.v := by cases c <;> rfl
@[simp] theorem State.skipIf_i (s : State) (c : Bool) : (s.skipIf c).i = s.i := by cases c <;> rfl
theorem State.skipIf_pc (s : State) (c : Bool) : (s.skipIf c).pc = if c then s.pc + 2#16 + 2#16 else s.pc + 2#16 := by
  cases c <;> rfl
@[simp] theorem State.skipIf_sp (s : State) (c : Bool) : (s.skipIf c).sp = s.sp := by cases c <;> rfl
@[simp] theorem State.skipIf_stack (s : State) (c : Bool) : (s.skipIf c).stack = s.stack := by cases c <;> rfl
@[simp] theorem State.skipIf_dt (s : State) (c : Bool) : (s.skipIf c).dt = s.dt := by cases c <;> rfl
@[simp] theorem State.skipIf_st (s : State) (c : Bool) : (s.skipIf c).st = s.st := by cases c <;> rfl
@[simp] theorem State.skipIf_fb (s : State) (c : Bool) : (s.skipIf c).fb = s.fb := by cases c <;> rfl
@[simp] theorem State.skipIf_keys (s : State) (c : Bool) : (s.skipIf c).keys = s.keys := by cases c <;> rfl
@[simp] theorem State.skipIf_prevKeys (s : State) (c : Bool) : (s.skipIf c).prevKeys = s.prevKeys := by cases c <;> rfl
@[simp] theorem State.skipIf_mem (s : State) (c : Bool) : (s.skipIf c).mem = s.mem := by cases c <;> rfl
@[simp] theorem State.skipIf_fault (s : State) (c : Bool) : (s.skipIf c).fault = s.fault := by cases c <;> rfl
@[simp] theorem State.skipIf_rndIn (s : State) (c : Bool) : (s.skipIf c).rndIn = s.rndIn := by cases c <;> rfl
@[simp] theorem State.skipIf_rndCount (s : State) (c : Bool) : (s.skipIf c).rndCount = s.rndCount := by cases c <;> rfl
@[simp] theorem State.useRnd_v (s : State) : s.useRnd.v = s.v := by
  unfold State.useRnd; split <;> rfl
@[simp] theorem State.useRnd_i (s : State) : s.useRnd.i = s.i := by
  unfold State.useRnd; split <;> rfl
@[simp] theorem State.useRnd_pc (s : State) : s.useRnd.pc = s.pc := by
  unfold State.useRnd; split <;> rfl
@[simp] theorem State.useRnd_sp (s : State) : s.useRnd.sp = s.sp := by
  unfold State.useRnd; split <;> rfl
@[simp] theorem State.useRnd_stack (s : State) : s.useRnd.stack = s.stack := by
  unfold State.useRnd; split <;> rfl
@[simp] theorem State.useRnd_dt (s : State) : s.useRnd.dt = s.dt := by
  unfold State.useRnd; split <;> rfl
@[simp] theorem State.useRnd_st (s : State) : s.useRnd.st = s.st := by
  unfold State.useRnd; split <;> rfl
@[simp] theorem State.useRnd_fb (s : State) : s.useRnd.fb = s.fb := by
  unfold State.useRnd; split <;> rfl
@[simp] theorem State.useRnd_keys (s : State) : s.useRnd.keys = s.keys := by
  unfold State.useRnd; split <;> rfl
@[simp] theorem State.useRnd_prevKeys (s : State) : s.useRnd.prevKeys = s.prevKeys := by
  unfold State.useRnd; split <;> rfl
@[simp] theorem State.useRnd_mem (s : State) : s.useRnd.mem = s.mem := by
  unfold State.useRnd; split <;> rfl
@[simp] theorem State.useRnd_fault (s : State) : s.useRnd.fault = s.fault := by
  unfold State.useRnd; split <;> rfl

end Sys2Proof.Machine
end

