-- ==== Sys2Proof/Laws/Ops.lean ====
section
/-! SUPPORT. What the shared operations do: one lemma for each, which proofs cite instead of unfolding it. -/

namespace Sys2Proof.Machine

/-! ### Registers -/

theorem State.reg_setReg (s : State) (x r : Nibble) (b : Byte) :
    (s.setReg x b).reg r = if r = x then b else s.reg r := by
  simp only [State.reg, State.setReg_v, Vector.getElem_set]
  by_cases h : r = x
  · simp [h]
  · rw [if_neg (fun e => h (BitVec.eq_of_toNat_eq e.symm)), if_neg h]

@[simp] theorem State.reg_setReg_self (s : State) (x : Nibble) (b : Byte) : (s.setReg x b).reg x = b := by
  simp [State.reg_setReg]

theorem State.reg_setRegAndFlag (s : State) (x r : Nibble) (a f : Byte) :
    (s.setRegAndFlag x a f).reg r = if r = flagReg then f else if r = x then a else s.reg r := by
  simp [State.setRegAndFlag, State.reg_setReg]

@[simp] theorem State.reg_advance (s : State) (r : Nibble) : s.advance.reg r = s.reg r := rfl
@[simp] theorem State.reg_setPc (s : State) (a : Word) (r : Nibble) : (s.setPc a).reg r = s.reg r := rfl
@[simp] theorem State.reg_setI (s : State) (a : Word) (r : Nibble) : (s.setI a).reg r = s.reg r := rfl
@[simp] theorem State.reg_setMem (s : State) (m : Memory) (r : Nibble) : (s.setMem m).reg r = s.reg r := rfl
@[simp] theorem State.reg_setFb (s : State) (f : Framebuffer) (r : Nibble) : (s.setFb f).reg r = s.reg r := rfl
@[simp] theorem State.reg_setDt (s : State) (b : Byte) (r : Nibble) : (s.setDt b).reg r = s.reg r := rfl
@[simp] theorem State.reg_setSt (s : State) (b : Byte) (r : Nibble) : (s.setSt b).reg r = s.reg r := rfl
@[simp] theorem State.reg_setKeys (s : State) (k : Vector Bool 16) (r : Nibble) : (s.setKeys k).reg r = s.reg r := rfl
@[simp] theorem State.reg_setPrevKeys (s : State) (k : Vector Bool 16) (r : Nibble) :
    (s.setPrevKeys k).reg r = s.reg r := rfl
@[simp] theorem State.reg_setFault (s : State) (f : Option Fault) (r : Nibble) : (s.setFault f).reg r = s.reg r := rfl
@[simp] theorem State.reg_setRndIn (s : State) (b : Option Byte) (r : Nibble) : (s.setRndIn b).reg r = s.reg r := rfl
@[simp] theorem State.reg_push (s : State) (a : Word) (r : Nibble) : (s.push a).reg r = s.reg r := rfl
@[simp] theorem State.reg_pop (s : State) (r : Nibble) : s.pop.reg r = s.reg r := rfl
@[simp] theorem State.reg_skipIf (s : State) (c : Bool) (r : Nibble) : (s.skipIf c).reg r = s.reg r := by
  cases c <;> rfl
@[simp] theorem State.reg_useRnd (s : State) (r : Nibble) : s.useRnd.reg r = s.reg r := by
  simp [State.reg]

/-- The register file after a load of V[0] to V[x] (42_index_memory.md R166). -/
theorem State.reg_loadedRegs (s t : State) (a : Nat) (x r : Nibble) :
    (t.setV (loadedRegs s a x)).reg r = if r.toNat ≤ x.toNat then s.mem.read (a + r.toNat) else s.reg r := by
  simp [State.reg, loadedRegs]

theorem firstRegs_length (s : State) (x : Nibble) : (firstRegs s x).length = x.toNat + 1 := by
  have := x.isLt
  simp only [firstRegs, List.length_take, Vector.length_toList]
  omega

theorem firstRegs_getElem (s : State) (x : Nibble) (j : Nat) (h : j < (firstRegs s x).length) :
    (firstRegs s x)[j] = s.reg (BitVec.ofNat 4 j) := by
  have hx := x.isLt
  have hj : j < x.toNat + 1 := by rw [← firstRegs_length s x]; exact h
  have h16 : (BitVec.ofNat 4 j).toNat = j := by rw [BitVec.toNat_ofNat]; omega
  simp only [firstRegs, State.reg, List.getElem_take, Vector.getElem_toList, h16]

/-! ### Flags -/

theorem carryFlag_eq (a b : Byte) : carryFlag a b = if a.toNat + b.toNat > 255 then 1#8 else 0#8 := by
  simp only [carryFlag, flagByte, decide_eq_true_eq]

theorem noBorrowFlag_eq (a b : Byte) : noBorrowFlag a b = if a.toNat ≥ b.toNat then 1#8 else 0#8 := by
  simp only [noBorrowFlag, flagByte, decide_eq_true_eq]

/-! ### The range check and faults -/

theorem rangeOk_iff (base : Word) (len : Nat) : rangeOk base len = true ↔ len = 0 ∨ base.toNat + len ≤ 4096 := by
  simp [rangeOk]

/-- The range check answers what it guards, or the state with OutOfBounds recorded. -/
theorem inRange_cases (base : Word) (len : Nat) (s : State) (go : Result) :
    (rangeOk base len = true ∧ inRange base len s go = go) ∨
      (rangeOk base len = false ∧ inRange base len s go = .next (s.setFault (some (.outOfBounds (lowestBad base))))) := by
  unfold inRange raise
  cases rangeOk base len <;> simp

theorem lowestBad_toNat (base : Word) : (lowestBad base).toNat = max base.toNat 0x1000 := by
  unfold lowestBad
  split_ifs with h
  · simp only [Config.memSize] at h; rw [Nat.max_eq_right (by omega)]; rfl
  · simp only [Config.memSize] at h; rw [Nat.max_eq_left (by omega)]

/-! ### The call stack -/

theorem State.push_sp_val (s : State) (a : Word) (h : s.sp.val ≠ 16) : (s.push a).sp.val = s.sp.val + 1 := by
  have := s.sp.isLt
  simp only [State.push_sp, Fin.val_add]
  change (s.sp.val + 1) % 17 = _
  omega

theorem State.pop_sp_val (s : State) (h : s.sp.val ≠ 0) : s.pop.sp.val = s.sp.val - 1 := by
  have := s.sp.isLt
  simp only [State.pop_sp, Fin.sub_def]
  change (17 - 1 + s.sp.val) % 17 = _
  omega

/-- The entries after a push (40_control_flow.md R122). -/
theorem State.stackAt_push (s : State) (a : Word) (j : Nat) :
    (s.push a).stackAt j = if j = s.sp.val ∧ j < 16 then a else s.stackAt j := by
  unfold State.stackAt
  split_ifs with h1 h2 h2
  · simp [h2.1]
  · simp only [State.push_stack, Vector.getElem_setIfInBounds]
    rw [if_neg (fun e => h2 ⟨e.symm, h1⟩)]
  · exact absurd h2.2 h1
  · rfl

/-! ### The framebuffer -/

/-- A cell after one cell is set. -/
theorem Framebuffer.cell_setCell (f : Framebuffer) (y x y' x' : Nat) (b : Bool) :
    (f.setCell y x b).cell y' x' =
      if y' = y ∧ x' = x ∧ y < 32 ∧ x < 64 then b else f.cell y' x' := by
  unfold Framebuffer.setCell Framebuffer.cell
  by_cases hy : y < 32
  · rw [dif_pos hy]
    by_cases hb : y' < 32 ∧ x' < 64
    · rw [dif_pos hb, dif_pos hb]
      obtain ⟨h1, h2⟩ := hb
      simp only [Vector.getElem_set]
      by_cases e : y = y'
      · subst e
        by_cases ex : x = x'
        · subst ex; simp [h1, h2]
        · simp [Ne.symm ex, ex]
      · simp [e, Ne.symm e]
    · rw [dif_neg hb, dif_neg hb, if_neg (by rintro ⟨rfl, rfl, h, h'⟩; exact hb ⟨h, h'⟩)]
  · rw [dif_neg hy, if_neg (by rintro ⟨_, _, h, _⟩; exact hy h)]

theorem Framebuffer.cell_clear (y x : Nat) : Framebuffer.clear.cell y x = false := by
  unfold Framebuffer.cell Framebuffer.clear
  split_ifs with h
  · simp
  · rfl

/-! ### Keys -/

theorem mem_allKeys (k : Nibble) : k ∈ allKeys := by
  revert k; decide

theorem State.key_setKeys_set (s : State) (k j : Nibble) (b : Bool) :
    (s.setKeys (s.keys.set k.toNat b)).key j = if j = k then b else s.key j := by
  simp only [State.key, State.setKeys_keys, Vector.getElem_set]
  by_cases h : j = k
  · simp [h]
  · rw [if_neg (fun e => h (BitVec.eq_of_toNat_eq e.symm)), if_neg h]

/-- A released key, when the scan finds one: it has a release edge and no lower key has (44_keypad_timers.md R192). -/
theorem State.releasedKey_eq_some (s : State) (k : Nibble) :
    s.releasedKey = some k ↔
      s.prevKey k = true ∧ s.key k = false ∧
        ∀ j : Nibble, j.toNat < k.toNat → ¬ (s.prevKey j = true ∧ s.key j = false) := by
  have key (p : Nibble → Bool) : ∀ k : Nibble, allKeys.find? p = some k ↔
      p k = true ∧ ∀ j : Nibble, j.toNat < k.toNat → p j = false := by
    intro k
    have hk := k.isLt
    rw [List.find?_eq_some_iff_getElem]
    refine and_congr_right fun _ => ⟨?_, fun h => ?_⟩
    · rintro ⟨i, hi, he, hlt⟩ j hj
      simp only [allKeys, List.getElem_map, List.getElem_range] at he hlt
      have hi' : i < 16 := by simpa [allKeys] using hi
      have : k.toNat = i := by rw [← he, BitVec.toNat_ofNat]; omega
      have := hlt j.toNat (by omega)
      simpa using this
    · refine ⟨k.toNat, by simpa [allKeys] using hk, by simp [allKeys], fun j hj => ?_⟩
      have hj16 : (BitVec.ofNat 4 j).toNat = j := by rw [BitVec.toNat_ofNat]; omega
      simpa [allKeys] using h (BitVec.ofNat 4 j) (by rw [hj16]; exact hj)
  rw [State.releasedKey, key]
  simp only [Bool.and_eq_true, Bool.not_eq_true', and_assoc]
  refine and_congr_right fun _ => and_congr_right fun _ => forall_congr' fun j => imp_congr_right fun _ => ?_
  cases s.prevKey j <;> cases s.key j <;> simp

/-- No released key: no key has a release edge. -/
theorem State.releasedKey_eq_none (s : State) :
    s.releasedKey = none ↔ ∀ k : Nibble, ¬ (s.prevKey k = true ∧ s.key k = false) := by
  rw [State.releasedKey, List.find?_eq_none]
  constructor
  · intro h k ⟨h1, h2⟩
    exact h k (mem_allKeys k) (by simp [h1, h2])
  · intro h k _ hk
    simp only [Bool.and_eq_true, Bool.not_eq_true'] at hk
    exact h k hk

end Sys2Proof.Machine
end

