-- ==== Sys2Proof/Laws/Draw.lean ====
section
/-! SUPPORT. What the loops of DRW (43_display.md R182) do to each cell and to the collision flag. -/

namespace Sys2Proof.Machine

/-- The cells columns `k` to `k + m - 1` of a sprite byte reach on row `y`, clipped to the screen. -/
def colHit (b : Byte) (y ox k m y' x' : Nat) : Prop :=
  y' = y ∧ ox + k ≤ x' ∧ x' < ox + k + m ∧ x' < 64 ∧ b.getLsbD (7 - (x' - ox)) = true

/-- The cells rows `k` to `k + n - 1` of a sprite reach, clipped to the screen. -/
def rowHit (m : Memory) (a oy ox k n y' x' : Nat) : Prop :=
  oy + k ≤ y' ∧ y' < oy + k + n ∧ y' < 32 ∧ ox ≤ x' ∧ x' < ox + 8 ∧ x' < 64 ∧
    (m.read (a + (y' - oy))).getLsbD (7 - (x' - ox)) = true

theorem toggleCell_cell (y x : Nat) (p : Framebuffer × Bool) (hy : y < 32) (hx : x < 64) (y' x' : Nat) :
    (toggleCell y x p).1.cell y' x' = if y' = y ∧ x' = x then !p.1.cell y' x' else p.1.cell y' x' := by
  simp only [toggleCell, Framebuffer.cell_setCell, hy, hx, and_true]
  split_ifs with h
  · rw [h.1, h.2]
  · rfl

/-- The column loop: each cell it reaches is toggled, and a reached cell that was 1 is a collision. -/
theorem drawCols_spec (b : Byte) (y ox : Nat) (hy : y < 32) (m : Nat) : ∀ (k : Nat) (p : Framebuffer × Bool),
    (∀ y' x', (drawCols b y ox (List.range' k m) p).1.cell y' x' = true ↔
        ¬ (p.1.cell y' x' = true ↔ colHit b y ox k m y' x')) ∧
      ((drawCols b y ox (List.range' k m) p).2 = true ↔
        p.2 = true ∨ ∃ y' x', p.1.cell y' x' = true ∧ colHit b y ox k m y' x') := by
  induction m with
  | zero =>
    intro k p
    have none (y' x') : ¬ colHit b y ox k 0 y' x' := by
      rintro ⟨_, h1, h2, _⟩; omega
    simp [drawCols, none]
  | succ m ih =>
    intro k p
    rw [List.range'_succ, drawCols]
    by_cases hc : ox + k > 63
    · rw [if_pos hc]
      have none (y' x') : ¬ colHit b y ox k (m + 1) y' x' := by
        rintro ⟨_, h1, _, h2, _⟩; omega
      simp [none]
    · rw [if_neg hc]
      have split (y' x') : colHit b y ox k (m + 1) y' x' ↔
          ((y' = y ∧ x' = ox + k ∧ b.getLsbD (7 - k) = true) ∨ colHit b y ox (k + 1) m y' x') := by
        unfold colHit
        constructor
        · rintro ⟨h1, h2, h3, h4, h5⟩
          by_cases e : x' = ox + k
          · left; refine ⟨h1, e, ?_⟩; rw [e] at h5; simpa using h5
          · right; exact ⟨h1, by omega, by omega, h4, h5⟩
        · rintro (⟨h1, h2, h3⟩ | ⟨h1, h2, h3, h4, h5⟩)
          · refine ⟨h1, by omega, by omega, by omega, ?_⟩; rw [h2]; simpa using h3
          · exact ⟨h1, by omega, by omega, h4, h5⟩
      have here (y' x') (h : colHit b y ox (k + 1) m y' x') : ¬ (y' = y ∧ x' = ox + k) := by
        rintro ⟨_, e⟩; have := h.2.1; omega
      obtain ⟨ih1, ih2⟩ := ih (k + 1) (if b.getLsbD (7 - k) then toggleCell y (ox + k) p else p)
      by_cases hb : b.getLsbD (7 - k) = true
      · rw [if_pos hb] at ih1 ih2 ⊢
        refine ⟨fun y' x' => ?_, ?_⟩
        · rw [ih1, toggleCell_cell y (ox + k) p hy (by omega), split]
          simp only [hb, and_true]
          by_cases e : y' = y ∧ x' = ox + k
          · have : ¬ colHit b y ox (k + 1) m y' x' := fun h => here y' x' h e
            rw [if_pos e]
            simp only [e.1, e.2, true_and, true_or, iff_true]
            simp [e.1, e.2] at this
            cases p.1.cell y (ox + k) <;> simp [this]
          · rw [if_neg e]
            have e' : ¬ (y' = y ∧ x' = ox + k) := e
            simp only [e', false_or]
        · rw [ih2]
          constructor
          · rintro (h | ⟨y', x', h, h'⟩)
            · simp only [toggleCell, Bool.or_eq_true] at h
              rcases h with h | h
              · exact .inl h
              · exact .inr ⟨y, ox + k, h, (split y (ox + k)).2 (.inl ⟨rfl, rfl, hb⟩)⟩
            · rw [toggleCell_cell y (ox + k) p hy (by omega), if_neg (here y' x' h')] at h
              exact .inr ⟨y', x', h, (split y' x').2 (.inr h')⟩
          · rintro (h | ⟨y', x', h, h'⟩)
            · left; simp [toggleCell, h]
            · rcases (split y' x').1 h' with ⟨rfl, rfl, _⟩ | h'
              · left; simp [toggleCell, h]
              · right; refine ⟨y', x', ?_, h'⟩
                rw [toggleCell_cell y (ox + k) p hy (by omega), if_neg (here y' x' h')]; exact h
      · rw [if_neg hb] at ih1 ih2 ⊢
        have split' (y' x') : colHit b y ox k (m + 1) y' x' ↔ colHit b y ox (k + 1) m y' x' := by
          rw [split]; simp [hb]
        exact ⟨fun y' x' => by rw [ih1, split'], by rw [ih2]; simp only [split']⟩

/-- The row loop, in the same terms. -/
theorem drawRows_spec (m : Memory) (a oy ox : Nat) (n : Nat) : ∀ (k : Nat) (p : Framebuffer × Bool),
    (∀ y' x', (drawRows m a oy ox (List.range' k n) p).1.cell y' x' = true ↔
        ¬ (p.1.cell y' x' = true ↔ rowHit m a oy ox k n y' x')) ∧
      ((drawRows m a oy ox (List.range' k n) p).2 = true ↔
        p.2 = true ∨ ∃ y' x', p.1.cell y' x' = true ∧ rowHit m a oy ox k n y' x') := by
  induction n with
  | zero =>
    intro k p
    have none (y' x') : ¬ rowHit m a oy ox k 0 y' x' := by rintro ⟨h1, h2, _⟩; omega
    simp [drawRows, none]
  | succ n ih =>
    intro k p
    rw [List.range'_succ, drawRows]
    by_cases hr : oy + k > 31
    · rw [if_pos hr]
      have none (y' x') : ¬ rowHit m a oy ox k (n + 1) y' x' := by rintro ⟨h1, _, h2, _⟩; omega
      simp [none]
    · rw [if_neg hr]
      obtain ⟨ih1, ih2⟩ := ih (k + 1) (drawCols (m.read (a + k)) (oy + k) ox (List.range 8) p)
      obtain ⟨c1, c2⟩ := drawCols_spec (m.read (a + k)) (oy + k) ox (by omega) 8 0 p
      rw [← List.range_eq_range'] at c1 c2
      have split (y' x') : rowHit m a oy ox k (n + 1) y' x' ↔
          (colHit (m.read (a + k)) (oy + k) ox 0 8 y' x' ∨ rowHit m a oy ox (k + 1) n y' x') := by
        unfold rowHit colHit
        constructor
        · rintro ⟨h1, h2, h3, h4, h5, h6, h7⟩
          by_cases e : y' = oy + k
          · left; refine ⟨e, by omega, by omega, h6, ?_⟩
            rw [e] at h7; simpa using h7
          · right; exact ⟨by omega, by omega, h3, h4, h5, h6, h7⟩
        · rintro (⟨h1, h2, h3, h4, h5⟩ | ⟨h1, h2, h3, h4, h5, h6, h7⟩)
          · refine ⟨by omega, by omega, by omega, by omega, by omega, h4, ?_⟩
            rw [h1]; simpa using h5
          · exact ⟨by omega, by omega, h3, h4, h5, h6, h7⟩
      have apart (y' x') : ¬ (colHit (m.read (a + k)) (oy + k) ox 0 8 y' x' ∧ rowHit m a oy ox (k + 1) n y' x') := by
        rintro ⟨h, h'⟩; have := h.1; have := h'.1; omega
      refine ⟨fun y' x' => ?_, ?_⟩
      · rw [ih1, c1, split]
        have := apart y' x'
        tauto
      · rw [ih2, c2]
        constructor
        · rintro ((h | ⟨y', x', h, h'⟩) | ⟨y', x', h, h'⟩)
          · exact .inl h
          · exact .inr ⟨y', x', h, (split y' x').2 (.inl h')⟩
          · refine .inr ⟨y', x', ?_, (split y' x').2 (.inr h')⟩
            rw [c1] at h; have := apart y' x'; tauto
        · rintro (h | ⟨y', x', h, h'⟩)
          · exact .inl (.inl h)
          · rcases (split y' x').1 h' with h' | h'
            · exact .inl (.inr ⟨y', x', h, h'⟩)
            · refine .inr ⟨y', x', ?_, h'⟩
              rw [c1]; have := apart y' x'; tauto

theorem rowHit_iff (m : Memory) (a oy ox n y x : Nat) :
    rowHit m a oy ox 0 n y x ↔ y < 32 ∧ x < 64 ∧ spriteBit m a oy ox n y x = true := by
  simp only [rowHit, spriteBit, Bool.and_eq_true, decide_eq_true_eq]
  constructor
  · rintro ⟨h1, h2, h3, h4, h5, h6, h7⟩
    exact ⟨h3, h6, ⟨⟨⟨by omega, by omega⟩, h4⟩, h5⟩, h7⟩
  · rintro ⟨h3, h6, ⟨⟨⟨h1, h2⟩, h4⟩, h5⟩, h7⟩
    exact ⟨by omega, by omega, h3, h4, h5, h6, h7⟩

/-- Every cell after a sprite is drawn: on the screen, the cell exclusive-or the sprite's bit over it. -/
theorem drawSprite_cell (m : Memory) (a oy ox n : Nat) (f : Framebuffer) (y x : Nat) (hy : y < 32) (hx : x < 64) :
    (drawSprite m a oy ox n f).1.cell y x = (f.cell y x ^^ spriteBit m a oy ox n y x) := by
  have h := (drawRows_spec m a oy ox n 0 (f, false)).1 y x
  rw [← List.range_eq_range', rowHit_iff] at h
  simp only [hy, hx, true_and] at h
  change (drawRows m a oy ox (List.range n) (f, false)).1.cell y x = _
  revert h
  generalize (drawRows m a oy ox (List.range n) (f, false)).1.cell y x = c
  cases c <;> cases f.cell y x <;> cases spriteBit m a oy ox n y x <;> simp

/-- The collision flag: some cell on the screen was 1 and has a sprite bit over it. -/
theorem drawSprite_hit (m : Memory) (a oy ox n : Nat) (f : Framebuffer) :
    (drawSprite m a oy ox n f).2 = true ↔
      ∃ y x, y < 32 ∧ x < 64 ∧ f.cell y x = true ∧ spriteBit m a oy ox n y x = true := by
  have h := (drawRows_spec m a oy ox n 0 (f, false)).2
  rw [← List.range_eq_range'] at h
  change (drawRows m a oy ox (List.range n) (f, false)).2 = true ↔ _
  rw [h]
  simp only [rowHit_iff, Bool.false_eq_true, false_or]
  constructor
  · rintro ⟨y, x, h1, h2, h3, h4⟩; exact ⟨y, x, h2, h3, h1, h4⟩
  · rintro ⟨y, x, h2, h3, h1, h4⟩; exact ⟨y, x, h1, h2, h3, h4⟩

/-- Outside the screen there is no cell. -/
theorem Framebuffer.cell_outside (f : Framebuffer) (y x : Nat) (h : ¬ (y < 32 ∧ x < 64)) : f.cell y x = false := by
  unfold Framebuffer.cell
  rw [dif_neg h]

end Sys2Proof.Machine
end

