-- ==== Sys2Proof/Laws/Exec.lean ====
section
/-! SUPPORT. The meanings that have a condition, each once where the condition holds, so that proofs do not unfold
them; and the range check in the terms of Safety.lean. -/

namespace Sys2Proof.Machine

/-- A range that lies in memory passes the check. -/
theorem inRange_ok {base : Word} {len : Nat} {s : State} {go : Result} (h : len = 0 ∨ base.toNat + len ≤ 4096) :
    inRange base len s go = go := by
  unfold inRange
  rw [if_pos ((rangeOk_iff _ _).2 h)]

/-- A range that does not lie in memory raises OutOfBounds with max(base, 0x1000) recorded. -/
theorem inRange_bad {base : Word} {len : Nat} {s : State} {go : Result} (h : 0 < len) (h' : 4096 < base.toNat + len) :
    inRange base len s go = .next (s.setFault (some (.outOfBounds (BitVec.ofNat 16 (max base.toNat 0x1000))))) := by
  have hl : lowestBad base = BitVec.ofNat 16 (max base.toNat 0x1000) := by
    have := base.isLt
    apply BitVec.eq_of_toNat_eq
    rw [lowestBad_toNat, BitVec.toNat_ofNat]
    omega
  unfold inRange raise
  rw [if_neg (by rw [rangeOk_iff]; omega), hl]

/-- The check and `accessFault` agree: it goes on exactly where there is no fault, and else raises that fault. -/
theorem inRange_accessFault (base : Word) (len : Nat) (s : State) (go : Result) :
    inRange base len s go = match accessFault base len with
      | none => go
      | some f => .next (s.setFault (some f)) := by
  unfold accessFault
  by_cases h : len > 0 ∧ base.toNat + len - 1 > 0xFFF
  · rw [if_pos h]; exact inRange_bad h.1 (by omega)
  · rw [if_neg h]; exact inRange_ok (by omega)

theorem accessFault_eq_none {base : Word} {len : Nat} : accessFault base len = none ↔ len = 0 ∨ base.toNat + len ≤ 4096 := by
  unfold accessFault
  split_ifs with h
  · simp; omega
  · simp; omega

theorem exec_ret_ok {s : State} (h : s.sp.val ≠ 0) :
    exec .ret s = .next (s.advance.pop.setPc (s.stackAt (s.sp.val - 1))) := by
  simp only [exec, execRet, if_neg h]

theorem exec_call_ok {s : State} (nnn : Addr12) (h : s.sp.val ≠ 16) :
    exec (.call nnn) s = .next ((s.advance.push s.advance.pc).setPc (addrOperand nnn)) := by
  simp only [exec, execCall, if_neg h]

theorem exec_ldB_ok {s : State} (x : Nibble) (h : s.i.toNat + 3 ≤ 4096) :
    exec (.ldB x) s = .next (s.advance.setMem (s.mem.writeList s.i.toNat (decimalDigits (s.reg x)))) := by
  simp only [exec, execLdB, inRange_ok (Or.inr h)]

theorem exec_store_ok {s : State} (x : Nibble) (h : s.i.toNat + (x.toNat + 1) ≤ 4096) :
    exec (.store x) s =
      .next ((s.advance.setMem (s.mem.writeList s.i.toNat (firstRegs s x))).setI (advancedI s x)) := by
  simp only [exec, execStore, inRange_ok (Or.inr h)]

theorem exec_load_ok {s : State} (x : Nibble) (h : s.i.toNat + (x.toNat + 1) ≤ 4096) :
    exec (.load x) s = .next ((s.advance.setV (loadedRegs s s.i.toNat x)).setI (advancedI s x)) := by
  simp only [exec, execLoad, inRange_ok (Or.inr h)]

theorem exec_drw_ok {s : State} (x y n : Nibble) (h : n.toNat = 0 ∨ s.i.toNat + n.toNat ≤ 4096) :
    exec (.drw x y n) s =
      .next ((s.advance.setFb
        (drawSprite s.mem s.i.toNat (originY (s.reg y)) (originX (s.reg x)) n.toNat s.fb).1).setReg flagReg
        (flagByte (drawSprite s.mem s.i.toNat (originY (s.reg y)) (originX (s.reg x)) n.toNat s.fb).2)) := by
  simp only [exec, execDrw, inRange_ok h]

theorem exec_ldVxK_some {s : State} {k : Nibble} (x : Nibble) (h : s.releasedKey = some k) :
    exec (.ldVxK x) s = .next ((s.advance.setPrevKeys s.keys).setReg x (k.setWidth 8)) := by
  simp only [exec, execLdVxK, h]

theorem exec_ldVxK_none {s : State} (x : Nibble) (h : s.releasedKey = none) :
    exec (.ldVxK x) s = .next ((s.advance.setPrevKeys s.keys).setPc (s.advance.pc - 2#16)) := by
  simp only [exec, execLdVxK, h]

/-- I after a dump or a load inside memory does not wrap. -/
theorem advancedI_toNat {s : State} {x : Nibble} (h : s.i.toNat + (x.toNat + 1) ≤ 4096) :
    (advancedI s x).toNat = s.i.toNat + x.toNat + 1 := by
  have := x.isLt
  simp only [advancedI, BitVec.toNat_add, BitVec.toNat_ofNat]
  omega

/-- Every byte of memory after a dump inside memory. -/
theorem read_firstRegs {s : State} {x : Nibble} (h : s.i.toNat + (x.toNat + 1) ≤ 4096) (a : Nat) :
    Memory.read (s.mem.writeList s.i.toNat (firstRegs s x)) a =
      if s.i.toNat ≤ a ∧ a < s.i.toNat + (x.toNat + 1) then s.reg (BitVec.ofNat 4 (a - s.i.toNat)) else s.mem.read a := by
  rw [Memory.read_writeList _ _ _ _ (by rw [firstRegs_length]; exact h)]
  simp only [firstRegs_length]
  split_ifs with h1
  · rw [firstRegs_getElem]
  · rfl

end Sys2Proof.Machine
end

