-- ==== Sys2Proof/Laws/Fetch.lean ====
section
/-! SUPPORT. The fetch after `State.withFetchWord`: from every state, the next step runs the placed word. -/

namespace Sys2Proof.Machine

theorem wordBytes_append (w : Word) : (w.extractLsb' 8 8 ++ w.extractLsb' 0 8 : BitVec (8 + 8)) = w := by
  apply BitVec.eq_of_getLsbD_eq
  intro k hk
  simp only [BitVec.getLsbD_extractLsb', BitVec.getLsbD_append]
  interval_cases k <;> simp

/-- A state made ready fetches inside memory. -/
theorem State.readyToFetch_range (s : State) : s.readyToFetch.pc.toNat + 2 ≤ 4096 := by
  simp only [State.readyToFetch, State.setPc_pc]
  split_ifs with h
  · rw [rangeOk_iff] at h; omega
  · decide

/-- The word the next fetch reads is the placed one. -/
theorem State.fetchWord_withFetchWord (s : State) (nbits w : Nat) :
    (s.withFetchWord nbits w).fetchWord = tableWord nbits w := by
  have h := s.readyToFetch_range
  have rd (a : Nat) := Memory.read_writeList (wordBytes (tableWord nbits w)) s.readyToFetch.mem
    s.readyToFetch.pc.toNat a h
  simp only [State.fetchWord, State.withFetchWord, State.setMem_mem, State.setMem_pc, rd]
  rw [dif_pos (by simp [wordBytes]), dif_pos (by simp [wordBytes])]
  simp only [wordBytes, Nat.sub_self, Nat.add_sub_cancel_left, List.getElem_cons_zero, List.getElem_cons_succ]
  exact wordBytes_append _

/-- The next step runs the placed word, from every state: `runWord` is the decode and the execution of a word. -/
theorem step_withFetchWord (s : State) (nbits w : Nat) :
    step (s.withFetchWord nbits w) = runWord (tableWord nbits w) (s.withFetchWord nbits w) := by
  have hf : (s.withFetchWord nbits w).halted = false := rfl
  have hp : (s.withFetchWord nbits w).pc = s.readyToFetch.pc := rfl
  unfold step
  rw [hf, if_neg (by simp), inRange_ok (by rw [hp]; exact .inr s.readyToFetch_range), State.fetchWord_withFetchWord]

end Sys2Proof.Machine
end

