-- ==== Sys2Proof/Laws/PerInstr.lean ====
section
/-! SUPPORT. Families of statements for all instructions, one lemma per constructor. FixedBits: the word of an
instruction has the fixed bits of its row of the opcode table (30_encoding.md R95). -/

namespace Sys2Proof.Laws

/-- The encoding of `i` belongs to the row of its mnemonic: `w & mask = match` (30_encoding.md R95). -/
def FixedBits.Statement (i : Instr) : Prop :=
  ∃ row ∈ opcodeTable, row.mnemonic = i.mnemonic ∧ encode i &&& row.mask = row.pattern

theorem FixedBits.cls : FixedBits.Statement .cls :=
  ⟨⟨"CLS", 0x00E0#16, 0xFFFF#16⟩, by decide, rfl, rfl⟩

theorem FixedBits.ret : FixedBits.Statement .ret :=
  ⟨⟨"RET", 0x00EE#16, 0xFFFF#16⟩, by decide, rfl, rfl⟩

theorem FixedBits.jp (nnn : Addr12) : FixedBits.Statement (.jp nnn) :=
  ⟨⟨"JP_nnn", 0x1000#16, 0xF000#16⟩, by decide, rfl, (and_F000 _).trans (by rw [encode, (fields_nnn _ _).1]; rfl)⟩

theorem FixedBits.call (nnn : Addr12) : FixedBits.Statement (.call nnn) :=
  ⟨⟨"CALL_nnn", 0x2000#16, 0xF000#16⟩, by decide, rfl, (and_F000 _).trans (by rw [encode, (fields_nnn _ _).1]; rfl)⟩

theorem FixedBits.seImm (x : Nibble) (kk : Byte) : FixedBits.Statement (.seImm x kk) :=
  ⟨⟨"SE_Vx__kk", 0x3000#16, 0xF000#16⟩, by decide, rfl, (and_F000 _).trans (by rw [encode, (fields_xkk _ _ _).1]; rfl)⟩

theorem FixedBits.sneImm (x : Nibble) (kk : Byte) : FixedBits.Statement (.sneImm x kk) :=
  ⟨⟨"SNE_Vx__kk", 0x4000#16, 0xF000#16⟩, by decide, rfl, (and_F000 _).trans (by rw [encode, (fields_xkk _ _ _).1]; rfl)⟩

theorem FixedBits.seReg (x : Nibble) (y : Nibble) : FixedBits.Statement (.seReg x y) :=
  ⟨⟨"SE_Vx__Vy", 0x5000#16, 0xF00F#16⟩, by decide, rfl, (and_F00F _).trans (by rw [encode, (fields_xyn _ _ _ _).1, (fields_xyn _ _ _ _).2.2.2]; rfl)⟩

theorem FixedBits.ldImm (x : Nibble) (kk : Byte) : FixedBits.Statement (.ldImm x kk) :=
  ⟨⟨"LD_Vx__kk", 0x6000#16, 0xF000#16⟩, by decide, rfl, (and_F000 _).trans (by rw [encode, (fields_xkk _ _ _).1]; rfl)⟩

theorem FixedBits.addImm (x : Nibble) (kk : Byte) : FixedBits.Statement (.addImm x kk) :=
  ⟨⟨"ADD_Vx__kk", 0x7000#16, 0xF000#16⟩, by decide, rfl, (and_F000 _).trans (by rw [encode, (fields_xkk _ _ _).1]; rfl)⟩

theorem FixedBits.ldReg (x : Nibble) (y : Nibble) : FixedBits.Statement (.ldReg x y) :=
  ⟨⟨"LD_Vx__Vy", 0x8000#16, 0xF00F#16⟩, by decide, rfl, (and_F00F _).trans (by rw [encode, (fields_xyn _ _ _ _).1, (fields_xyn _ _ _ _).2.2.2]; rfl)⟩

theorem FixedBits.orReg (x : Nibble) (y : Nibble) : FixedBits.Statement (.orReg x y) :=
  ⟨⟨"OR_Vx__Vy", 0x8001#16, 0xF00F#16⟩, by decide, rfl, (and_F00F _).trans (by rw [encode, (fields_xyn _ _ _ _).1, (fields_xyn _ _ _ _).2.2.2]; rfl)⟩

theorem FixedBits.andReg (x : Nibble) (y : Nibble) : FixedBits.Statement (.andReg x y) :=
  ⟨⟨"AND_Vx__Vy", 0x8002#16, 0xF00F#16⟩, by decide, rfl, (and_F00F _).trans (by rw [encode, (fields_xyn _ _ _ _).1, (fields_xyn _ _ _ _).2.2.2]; rfl)⟩

theorem FixedBits.xorReg (x : Nibble) (y : Nibble) : FixedBits.Statement (.xorReg x y) :=
  ⟨⟨"XOR_Vx__Vy", 0x8003#16, 0xF00F#16⟩, by decide, rfl, (and_F00F _).trans (by rw [encode, (fields_xyn _ _ _ _).1, (fields_xyn _ _ _ _).2.2.2]; rfl)⟩

theorem FixedBits.addReg (x : Nibble) (y : Nibble) : FixedBits.Statement (.addReg x y) :=
  ⟨⟨"ADD_Vx__Vy", 0x8004#16, 0xF00F#16⟩, by decide, rfl, (and_F00F _).trans (by rw [encode, (fields_xyn _ _ _ _).1, (fields_xyn _ _ _ _).2.2.2]; rfl)⟩

theorem FixedBits.subReg (x : Nibble) (y : Nibble) : FixedBits.Statement (.subReg x y) :=
  ⟨⟨"SUB_Vx__Vy", 0x8005#16, 0xF00F#16⟩, by decide, rfl, (and_F00F _).trans (by rw [encode, (fields_xyn _ _ _ _).1, (fields_xyn _ _ _ _).2.2.2]; rfl)⟩

theorem FixedBits.shr (x : Nibble) (y : Nibble) : FixedBits.Statement (.shr x y) :=
  ⟨⟨"SHR_Vx__Vy", 0x8006#16, 0xF00F#16⟩, by decide, rfl, (and_F00F _).trans (by rw [encode, (fields_xyn _ _ _ _).1, (fields_xyn _ _ _ _).2.2.2]; rfl)⟩

theorem FixedBits.subn (x : Nibble) (y : Nibble) : FixedBits.Statement (.subn x y) :=
  ⟨⟨"SUBN_Vx__Vy", 0x8007#16, 0xF00F#16⟩, by decide, rfl, (and_F00F _).trans (by rw [encode, (fields_xyn _ _ _ _).1, (fields_xyn _ _ _ _).2.2.2]; rfl)⟩

theorem FixedBits.shl (x : Nibble) (y : Nibble) : FixedBits.Statement (.shl x y) :=
  ⟨⟨"SHL_Vx__Vy", 0x800E#16, 0xF00F#16⟩, by decide, rfl, (and_F00F _).trans (by rw [encode, (fields_xyn _ _ _ _).1, (fields_xyn _ _ _ _).2.2.2]; rfl)⟩

theorem FixedBits.sneReg (x : Nibble) (y : Nibble) : FixedBits.Statement (.sneReg x y) :=
  ⟨⟨"SNE_Vx__Vy", 0x9000#16, 0xF00F#16⟩, by decide, rfl, (and_F00F _).trans (by rw [encode, (fields_xyn _ _ _ _).1, (fields_xyn _ _ _ _).2.2.2]; rfl)⟩

theorem FixedBits.ldI (nnn : Addr12) : FixedBits.Statement (.ldI nnn) :=
  ⟨⟨"LD_I__nnn", 0xA000#16, 0xF000#16⟩, by decide, rfl, (and_F000 _).trans (by rw [encode, (fields_nnn _ _).1]; rfl)⟩

theorem FixedBits.jpV0 (nnn : Addr12) : FixedBits.Statement (.jpV0 nnn) :=
  ⟨⟨"JP_V0__nnn", 0xB000#16, 0xF000#16⟩, by decide, rfl, (and_F000 _).trans (by rw [encode, (fields_nnn _ _).1]; rfl)⟩

theorem FixedBits.rnd (x : Nibble) (kk : Byte) : FixedBits.Statement (.rnd x kk) :=
  ⟨⟨"RND_Vx__kk", 0xC000#16, 0xF000#16⟩, by decide, rfl, (and_F000 _).trans (by rw [encode, (fields_xkk _ _ _).1]; rfl)⟩

theorem FixedBits.drw (x : Nibble) (y : Nibble) (n : Nibble) : FixedBits.Statement (.drw x y n) :=
  ⟨⟨"DRW_Vx__Vy__n", 0xD000#16, 0xF000#16⟩, by decide, rfl, (and_F000 _).trans (by rw [encode, (fields_xyn _ _ _ _).1]; rfl)⟩

theorem FixedBits.skp (x : Nibble) : FixedBits.Statement (.skp x) :=
  ⟨⟨"SKP_Vx", 0xE09E#16, 0xF0FF#16⟩, by decide, rfl, (and_F0FF _).trans (by rw [encode, (fields_xkk _ _ _).1, (fields_xkk _ _ _).2.2]; rfl)⟩

theorem FixedBits.sknp (x : Nibble) : FixedBits.Statement (.sknp x) :=
  ⟨⟨"SKNP_Vx", 0xE0A1#16, 0xF0FF#16⟩, by decide, rfl, (and_F0FF _).trans (by rw [encode, (fields_xkk _ _ _).1, (fields_xkk _ _ _).2.2]; rfl)⟩

theorem FixedBits.ldVxDT (x : Nibble) : FixedBits.Statement (.ldVxDT x) :=
  ⟨⟨"LD_Vx__DT", 0xF007#16, 0xF0FF#16⟩, by decide, rfl, (and_F0FF _).trans (by rw [encode, (fields_xkk _ _ _).1, (fields_xkk _ _ _).2.2]; rfl)⟩

theorem FixedBits.ldVxK (x : Nibble) : FixedBits.Statement (.ldVxK x) :=
  ⟨⟨"LD_Vx__K", 0xF00A#16, 0xF0FF#16⟩, by decide, rfl, (and_F0FF _).trans (by rw [encode, (fields_xkk _ _ _).1, (fields_xkk _ _ _).2.2]; rfl)⟩

theorem FixedBits.ldDTVx (x : Nibble) : FixedBits.Statement (.ldDTVx x) :=
  ⟨⟨"LD_DT__Vx", 0xF015#16, 0xF0FF#16⟩, by decide, rfl, (and_F0FF _).trans (by rw [encode, (fields_xkk _ _ _).1, (fields_xkk _ _ _).2.2]; rfl)⟩

theorem FixedBits.ldSTVx (x : Nibble) : FixedBits.Statement (.ldSTVx x) :=
  ⟨⟨"LD_ST__Vx", 0xF018#16, 0xF0FF#16⟩, by decide, rfl, (and_F0FF _).trans (by rw [encode, (fields_xkk _ _ _).1, (fields_xkk _ _ _).2.2]; rfl)⟩

theorem FixedBits.addI (x : Nibble) : FixedBits.Statement (.addI x) :=
  ⟨⟨"ADD_I__Vx", 0xF01E#16, 0xF0FF#16⟩, by decide, rfl, (and_F0FF _).trans (by rw [encode, (fields_xkk _ _ _).1, (fields_xkk _ _ _).2.2]; rfl)⟩

theorem FixedBits.ldF (x : Nibble) : FixedBits.Statement (.ldF x) :=
  ⟨⟨"LD_F__Vx", 0xF029#16, 0xF0FF#16⟩, by decide, rfl, (and_F0FF _).trans (by rw [encode, (fields_xkk _ _ _).1, (fields_xkk _ _ _).2.2]; rfl)⟩

theorem FixedBits.ldB (x : Nibble) : FixedBits.Statement (.ldB x) :=
  ⟨⟨"LD_B__Vx", 0xF033#16, 0xF0FF#16⟩, by decide, rfl, (and_F0FF _).trans (by rw [encode, (fields_xkk _ _ _).1, (fields_xkk _ _ _).2.2]; rfl)⟩

theorem FixedBits.store (x : Nibble) : FixedBits.Statement (.store x) :=
  ⟨⟨"LD__I___Vx", 0xF055#16, 0xF0FF#16⟩, by decide, rfl, (and_F0FF _).trans (by rw [encode, (fields_xkk _ _ _).1, (fields_xkk _ _ _).2.2]; rfl)⟩

theorem FixedBits.load (x : Nibble) : FixedBits.Statement (.load x) :=
  ⟨⟨"LD_Vx___I", 0xF065#16, 0xF0FF#16⟩, by decide, rfl, (and_F0FF _).trans (by rw [encode, (fields_xkk _ _ _).1, (fields_xkk _ _ _).2.2]; rfl)⟩

/-- Every term of Instr is well formed: its operand types are the ranges of 30_encoding.md R93. -/
theorem wellFormed_all (i : Instr) : i.wellFormed = true := by
  cases i <;> simp only [Instr.wellFormed, Instr.operands, operandsFit, List.all_cons, List.all_nil,
    OperandKind.fits, Bool.and_true, Bool.and_eq_true, decide_eq_true_eq] <;>
    first
      | trivial
      | exact BitVec.isLt _
      | exact ⟨BitVec.isLt _, BitVec.isLt _⟩
      | exact ⟨BitVec.isLt _, BitVec.isLt _, BitVec.isLt _⟩

end Sys2Proof.Laws
end

