-- ==== Sys2Proof/Tests/Slice0.lean ====
section
/-! SUPPORT. The model's own tests: the well-formedness smoke, one word decoded for each instruction, vectors of
95_test_vectors.md (each names its row), and a witness for the hypotheses of every statement that has some. -/

namespace Sys2Proof.Tests

open Sys2Proof.Machine

/-! ### Well-formedness: one ill-formed operand list for each check (30_encoding.md R102) -/

theorem test_wf_register_refused : operandsFit [(.register, 16)] = false := by decide
theorem test_wf_short_refused : operandsFit [(.register, 1), (.register, 2), (.short, 16)] = false := by decide
theorem test_wf_immediate_refused : operandsFit [(.register, 15), (.immediate, 256)] = false := by decide
theorem test_wf_address_refused : operandsFit [(.address, 4096)] = false := by decide
theorem test_wf_accepted : (Instr.drw 15#4 0#4 15#4).wellFormed = true := by decide

/-! ### Decoding: a word of each row, from the patterns of 30_encoding.md R95 -/

theorem test_decode_family0 : decodeWord 0x00E0#16 = .ok .cls ∧ decodeWord 0x00EE#16 = .ok .ret := by decide
theorem test_decode_jumps : decodeWord 0x1234#16 = .ok (.jp 0x234#12) ∧ decodeWord 0x2ABC#16 = .ok (.call 0xABC#12) ∧
    decodeWord 0xBF10#16 = .ok (.jpV0 0xF10#12) := by decide
theorem test_decode_skips : decodeWord 0x332A#16 = .ok (.seImm 3#4 0x2A#8) ∧
    decodeWord 0x432A#16 = .ok (.sneImm 3#4 0x2A#8) ∧ decodeWord 0x5120#16 = .ok (.seReg 1#4 2#4) ∧
    decodeWord 0x9120#16 = .ok (.sneReg 1#4 2#4) := by decide
theorem test_decode_immediates : decodeWord 0x6005#16 = .ok (.ldImm 0#4 5#8) ∧
    decodeWord 0x700A#16 = .ok (.addImm 0#4 10#8) ∧ decodeWord 0xC40F#16 = .ok (.rnd 4#4 0x0F#8) := by decide
theorem test_decode_family8_low : decodeWord 0x8120#16 = .ok (.ldReg 1#4 2#4) ∧
    decodeWord 0x8121#16 = .ok (.orReg 1#4 2#4) ∧ decodeWord 0x8122#16 = .ok (.andReg 1#4 2#4) ∧
    decodeWord 0x8123#16 = .ok (.xorReg 1#4 2#4) ∧ decodeWord 0x8124#16 = .ok (.addReg 1#4 2#4) := by decide
theorem test_decode_family8_high : decodeWord 0x8125#16 = .ok (.subReg 1#4 2#4) ∧
    decodeWord 0x8126#16 = .ok (.shr 1#4 2#4) ∧ decodeWord 0x8127#16 = .ok (.subn 1#4 2#4) ∧
    decodeWord 0x812E#16 = .ok (.shl 1#4 2#4) := by decide
theorem test_decode_index_and_display : decodeWord 0xA20E#16 = .ok (.ldI 0x20E#12) ∧
    decodeWord 0xD123#16 = .ok (.drw 1#4 2#4 3#4) := by decide
theorem test_decode_familyE : decodeWord 0xE39E#16 = .ok (.skp 3#4) ∧ decodeWord 0xE3A1#16 = .ok (.sknp 3#4) := by decide
theorem test_decode_familyF_low : decodeWord 0xF107#16 = .ok (.ldVxDT 1#4) ∧ decodeWord 0xF00A#16 = .ok (.ldVxK 0#4) ∧
    decodeWord 0xF015#16 = .ok (.ldDTVx 0#4) ∧ decodeWord 0xF018#16 = .ok (.ldSTVx 0#4) ∧
    decodeWord 0xF21E#16 = .ok (.addI 2#4) := by decide
theorem test_decode_familyF_high : decodeWord 0xF329#16 = .ok (.ldF 3#4) ∧ decodeWord 0xF033#16 = .ok (.ldB 0#4) ∧
    decodeWord 0xF255#16 = .ok (.store 2#4) ∧ decodeWord 0xF265#16 = .ok (.load 2#4) := by decide
/-- 95_test_vectors.md 2.7: words that are no instruction. -/
theorem test_decode_unknown_family0 :
    decodeWord 0x0000#16 = .error (.unknownInstruction 0x0000#16) ∧
    decodeWord 0x00E1#16 = .error (.unknownInstruction 0x00E1#16) ∧
    decodeWord 0x00EF#16 = .error (.unknownInstruction 0x00EF#16) ∧
    decodeWord 0x0123#16 = .error (.unknownInstruction 0x0123#16) ∧
    decodeWord 0x0FFF#16 = .error (.unknownInstruction 0x0FFF#16) :=
  ⟨by decide, by decide, by decide, by decide, by decide⟩
/-- 95_test_vectors.md 2.7: words that are no instruction. -/
theorem test_decode_unknown_register_forms :
    decodeWord 0x5121#16 = .error (.unknownInstruction 0x5121#16) ∧
    decodeWord 0x9125#16 = .error (.unknownInstruction 0x9125#16) ∧
    decodeWord 0x8128#16 = .error (.unknownInstruction 0x8128#16) ∧
    decodeWord 0x812F#16 = .error (.unknownInstruction 0x812F#16) :=
  ⟨by decide, by decide, by decide, by decide⟩
/-- 95_test_vectors.md 2.7: words that are no instruction. -/
theorem test_decode_unknown_families_EF :
    decodeWord 0xE000#16 = .error (.unknownInstruction 0xE000#16) ∧
    decodeWord 0xE19F#16 = .error (.unknownInstruction 0xE19F#16) ∧
    decodeWord 0xF0FF#16 = .error (.unknownInstruction 0xF0FF#16) ∧
    decodeWord 0xF056#16 = .error (.unknownInstruction 0xF056#16) ∧
    decodeWord 0xF085#16 = .error (.unknownInstruction 0xF085#16) :=
  ⟨by decide, by decide, by decide, by decide, by decide⟩
/-- 30_encoding.md R90: one byte is no instruction. -/
theorem test_decode_truncated : decodeBytes [0x12#8] = .error .truncated := by decide
/-- 20_memory.md R62: bytes 12 34 are the word 0x1234; the third byte is left. -/
theorem test_decode_bytes : decodeBytes [0x12#8, 0x34#8, 0x60#8] = .ok (.jp 0x234#12, [0x60#8]) := by decide
theorem test_decode_table_word : decodeTableWord 16 0x00E0 = some .cls ∧ decodeTableWord 16 0x5121 = none := by decide
/-- 30_encoding.md R95: the rows are pairwise disjoint (no word fits two: they differ in a bit both fix). -/
theorem test_rows_disjoint : opcodeTable.Pairwise fun a b =>
    a.mask &&& b.mask &&& a.pattern ≠ a.mask &&& b.mask &&& b.pattern := by decide
theorem test_rows_count : opcodeTable.length = 34 := by decide

/-! ### One step on a small state (95_test_vectors.md: word at PC, one Step) -/

/-- What is seen of the state after one step on a word placed at PC; none where the step is no next state. -/
def seen {α : Type} (w : Nat) (s : State) (f : State → α) : Option α :=
  match step (s.withFetchWord 16 w) with
  | .next t => some (f t)
  | .fault _ => none
  | .refused _ => none

/-- The reset state with some registers set. -/
def withRegs (rs : List (Nibble × Byte)) : State := rs.foldl (fun s p => s.setReg p.1 p.2) State.reset

/-- The reset state with SP and one stack entry set. -/
def withStack (sp : Fin 17) (j : Nat) (a : Word) : State :=
  (State.reset.setSp sp).setStack (State.reset.stack.setIfInBounds j a)

-- 2.1 Control transfer
theorem test_jp : seen 0x1234 State.reset (·.pc) = some 0x234#16 := by decide
theorem test_jp_odd : seen 0x1201 State.reset (·.pc) = some 0x201#16 := by decide
theorem test_call : seen 0x2300 State.reset (fun t => (t.pc, t.sp, t.stackAt 0)) = some (0x300#16, 1, 0x202#16) := by decide
theorem test_call_full : seen 0x2300 (State.reset.setSp 16) (fun t => (t.pc, t.sp, t.fault)) =
    some (0x200#16, 16, some .stackOverflow) := by decide
theorem test_ret : seen 0x00EE (withStack 1 0 0x0ABC#16) (fun t => (t.pc, t.sp, t.stackAt 0)) =
    some (0xABC#16, 0, 0xABC#16) := by decide
theorem test_ret_empty : seen 0x00EE State.reset (fun t => (t.pc, t.sp, t.fault)) =
    some (0x200#16, 0, some .stackUnderflow) := by decide
theorem test_seImm_taken : seen 0x332A (withRegs [(3#4, 0x2A#8)]) (·.pc) = some 0x204#16 := by decide
theorem test_seImm_not_taken : seen 0x332A (withRegs [(3#4, 0x2B#8)]) (·.pc) = some 0x202#16 := by decide
theorem test_sneImm_not_taken : seen 0x432A (withRegs [(3#4, 0x2A#8)]) (·.pc) = some 0x202#16 := by decide
theorem test_sneImm_taken : seen 0x432A State.reset (·.pc) = some 0x204#16 := by decide
theorem test_seReg : seen 0x5120 (withRegs [(1#4, 7#8), (2#4, 8#8)]) (·.pc) = some 0x202#16 := by decide
theorem test_seReg_self : seen 0x5330 (withRegs [(3#4, 0x91#8)]) (·.pc) = some 0x204#16 := by decide
theorem test_sneReg : seen 0x9120 (withRegs [(1#4, 7#8), (2#4, 8#8)]) (·.pc) = some 0x204#16 := by decide
theorem test_sneReg_self : seen 0x9330 (withRegs [(3#4, 0x91#8)]) (·.pc) = some 0x202#16 := by decide
theorem test_jpV0 : seen 0xB300 (withRegs [(3#4, 0xFF#8)]) (·.pc) = some 0x300#16 := by decide
theorem test_jpV0_top : seen 0xBFFF (withRegs [(0#4, 0xFF#8)]) (·.pc) = some 0x10FE#16 := by decide

-- 2.2 Register, arithmetic, logic, random
theorem test_ldImm : seen 0x6F37 State.reset (·.reg 15#4) = some 0x37#8 := by decide
theorem test_addImm_wraps : seen 0x7001 (withRegs [(0#4, 0xFF#8)]) (fun t => (t.reg 0#4, t.reg 15#4)) =
    some (0#8, 0#8) := by decide
theorem test_addImm_VF : seen 0x7F02 (withRegs [(15#4, 1#8)]) (·.reg 15#4) = some 3#8 := by decide
theorem test_ldReg : seen 0x81F0 (withRegs [(15#4, 1#8)]) (fun t => (t.reg 1#4, t.reg 15#4)) = some (1#8, 1#8) := by decide
theorem test_or : seen 0x8121 (withRegs [(1#4, 0xF0#8), (2#4, 0x0F#8), (15#4, 1#8)])
    (fun t => (t.reg 1#4, t.reg 15#4)) = some (0xFF#8, 0#8) := by decide
theorem test_or_VF_operand : seen 0x81F1 (withRegs [(1#4, 0x10#8), (15#4, 1#8)])
    (fun t => (t.reg 1#4, t.reg 15#4)) = some (0x11#8, 0#8) := by decide
theorem test_and : seen 0x8122 (withRegs [(1#4, 0xF0#8), (2#4, 0x3C#8), (15#4, 1#8)])
    (fun t => (t.reg 1#4, t.reg 15#4)) = some (0x30#8, 0#8) := by decide
theorem test_xor : seen 0x8123 (withRegs [(1#4, 0xF0#8), (2#4, 0x3C#8)])
    (fun t => (t.reg 1#4, t.reg 15#4)) = some (0xCC#8, 0#8) := by decide
theorem test_xor_VF_operand : seen 0x81F3 (withRegs [(1#4, 3#8), (15#4, 1#8)])
    (fun t => (t.reg 1#4, t.reg 15#4)) = some (2#8, 0#8) := by decide
theorem test_add_carry : seen 0x8124 (withRegs [(1#4, 0xFF#8), (2#4, 1#8)])
    (fun t => (t.reg 1#4, t.reg 15#4)) = some (0#8, 1#8) := by decide
theorem test_add_into_VF : seen 0x8F24 (withRegs [(15#4, 0x10#8), (2#4, 0x20#8)]) (·.reg 15#4) = some 0#8 := by decide
theorem test_sub_equal : seen 0x8125 (withRegs [(1#4, 0x0A#8), (2#4, 0x0A#8)])
    (fun t => (t.reg 1#4, t.reg 15#4)) = some (0#8, 1#8) := by decide
theorem test_sub_borrow : seen 0x8125 (withRegs [(2#4, 1#8)])
    (fun t => (t.reg 1#4, t.reg 15#4)) = some (0xFF#8, 0#8) := by decide
theorem test_shr : seen 0x8126 (withRegs [(1#4, 0xAA#8), (2#4, 4#8)])
    (fun t => (t.reg 1#4, t.reg 2#4, t.reg 15#4)) = some (2#8, 4#8, 0#8) := by decide
theorem test_shr_of_VF : seen 0x81F6 (withRegs [(15#4, 3#8)])
    (fun t => (t.reg 1#4, t.reg 15#4)) = some (1#8, 1#8) := by decide
theorem test_subn : seen 0x8127 (withRegs [(1#4, 0x0A#8), (2#4, 5#8)])
    (fun t => (t.reg 1#4, t.reg 15#4)) = some (0xFB#8, 0#8) := by decide
theorem test_subn_no_borrow : seen 0x8127 (withRegs [(1#4, 5#8), (2#4, 0x0A#8)])
    (fun t => (t.reg 1#4, t.reg 15#4)) = some (5#8, 1#8) := by decide
theorem test_shl : seen 0x812E (withRegs [(1#4, 0xAA#8), (2#4, 0x40#8)])
    (fun t => (t.reg 1#4, t.reg 15#4)) = some (0x80#8, 0#8) := by decide
theorem test_shl_into_VF : seen 0x8F2E (withRegs [(2#4, 0xC0#8)]) (·.reg 15#4) = some 1#8 := by decide
theorem test_rnd : seen 0xC40F (State.reset.setRndIn (some 0xB7#8)) (fun t => (t.reg 4#4, t.rndIn, t.rndCount)) =
    some (7#8, none, 0) := by decide
theorem test_rnd_counts_free_bytes : seen 0xC40F State.reset (·.rndCount) = some 1 := by decide

-- 2.3 Index register and memory
theorem test_ldI : seen 0xAFFF State.reset (·.i) = some 0x0FFF#16 := by decide
theorem test_addI : seen 0xF01E ((withRegs [(0#4, 1#8)]).setI 0x0FFF#16) (fun t => (t.i, t.reg 15#4, t.fault)) =
    some (0x1000#16, 0#8, none) := by decide
theorem test_addI_wraps : seen 0xF01E ((withRegs [(0#4, 1#8)]).setI 0xFFFF#16) (·.i) = some 0#16 := by decide
theorem test_ldF : seen 0xF329 (withRegs [(3#4, 0x0A#8)]) (·.i) = some 0x82#16 := by decide
theorem test_ldF_unmasked : seen 0xF329 (withRegs [(3#4, 0xFF#8)]) (·.i) = some 0x54B#16 := by decide
theorem test_ldB_top : seen 0xF033 ((withRegs [(0#4, 0xFF#8)]).setI 0x0FFD#16)
    (fun t => (t.mem.read 0xFFD, t.mem.read 0xFFE, t.mem.read 0xFFF, t.i)) = some (2#8, 5#8, 5#8, 0xFFD#16) := by decide
theorem test_ldB_beyond : seen 0xF033 ((withRegs [(0#4, 0xFF#8)]).setI 0x0FFE#16)
    (fun t => (t.fault, t.pc, t.mem.read 0xFFE)) = some (some (.outOfBounds 0x1000#16), 0x200#16, 0#8) := by decide
theorem test_store : seen 0xF255 ((withRegs [(0#4, 0x11#8), (1#4, 0x22#8), (2#4, 0x33#8), (3#4, 0x44#8)]).setI 0x400#16)
    (fun t => (t.mem.read 0x400, t.mem.read 0x401, t.mem.read 0x402, t.mem.read 0x403, t.i)) =
    some (0x11#8, 0x22#8, 0x33#8, 0#8, 0x403#16) := by decide
theorem test_store_beyond : seen 0xF055 (State.reset.setI 0x2000#16) (·.fault) =
    some (some (.outOfBounds 0x2000#16)) := by decide
/-- 2.6: depends on FONT. -/
theorem test_load : seen 0xF165 (State.reset.setI 0x50#16) (fun t => (t.reg 0#4, t.reg 1#4, t.reg 2#4, t.i)) =
    some (0xF0#8, 0x90#8, 0#8, 0x52#16) := by decide
theorem test_load_beyond : seen 0xF065 ((withRegs [(0#4, 9#8)]).setI 0x1000#16) (fun t => (t.fault, t.reg 0#4)) =
    some (some (.outOfBounds 0x1000#16), 9#8) := by decide

-- 2.4 Display
/-- A state with I = 0x300, sprite bytes there, and some cells (row, column) set. -/
def withSprite (rs : List (Nibble × Byte)) (bytes : List Byte) (cells : List (Nat × Nat)) : State :=
  (((withRegs rs).setI 0x300#16).setMem (State.reset.mem.writeList 0x300 bytes)).setFb
    (cells.foldl (fun f p => f.setCell p.1 p.2 true) Framebuffer.clear)

theorem test_cls : seen 0x00E0 (withSprite [(15#4, 1#8)] [] [(4, 3), (31, 63)])
    (fun t => (t.fb.cell 4 3, t.fb.cell 31 63, t.reg 15#4)) = some (false, false, 1#8) := by decide
theorem test_drw_clips_right : seen 0xD011 (withSprite [(0#4, 0x3C#8)] [0xFF#8] [])
    (fun t => ((List.range 64).map (t.fb.cell 0) |>.filter id).length) = some 4 := by decide
theorem test_drw_collision : seen 0xD011 (withSprite [] [0xC0#8] [(0, 0)])
    (fun t => (t.fb.cell 0 0, t.fb.cell 0 1, t.reg 15#4)) = some (false, true, 1#8) := by decide

-- 2.5 Keypad and timers
/-- The reset state with these keys down now, and these down in the snapshot. -/
def withKeys (now before : List Nat) (rs : List (Nibble × Byte)) : State :=
  ((withRegs rs).setKeys (now.foldl (fun v k => v.setIfInBounds k true) State.reset.keys)).setPrevKeys
    (before.foldl (fun v k => v.setIfInBounds k true) State.reset.keys)

theorem test_skp_masked : seen 0xE39E (withKeys [10] [] [(3#4, 0x1A#8)]) (·.pc) = some 0x204#16 := by decide
theorem test_skp_up : seen 0xE39E (withKeys [15] [] [(3#4, 0xF7#8)]) (·.pc) = some 0x202#16 := by decide
theorem test_sknp_up : seen 0xE3A1 (withKeys [] [] [(3#4, 7#8)]) (·.pc) = some 0x204#16 := by decide
theorem test_sknp_down : seen 0xE3A1 (withKeys [7] [] [(3#4, 7#8)]) (·.pc) = some 0x202#16 := by decide
theorem test_ldVxK_lowest : seen 0xF00A (withKeys [] [3, 9] [])
    (fun t => (t.reg 0#4, t.pc, t.prevKey 3#4, t.prevKey 9#4)) = some (3#8, 0x202#16, false, false) := by decide
theorem test_ldVxK_waits : seen 0xF00A (withKeys [7] [7] []) (fun t => (t.pc, t.prevKey 7#4)) =
    some (0x200#16, true) := by decide
theorem test_ldVxDT : seen 0xF107 (State.reset.setDt 0x3C#8) (fun t => (t.reg 1#4, t.dt)) = some (0x3C#8, 0x3C#8) := by decide
theorem test_ldDTVx : seen 0xF015 (withRegs [(0#4, 7#8)]) (fun t => (t.dt, t.st)) = some (7#8, 0#8) := by decide
theorem test_ldSTVx : seen 0xF018 (withRegs [(0#4, 0x1E#8)]) (fun t => (t.dt, t.st)) = some (0#8, 0x1E#8) := by decide

-- 2.5, 2.7, 2.8: host operations, faults, unknown words
theorem test_tick : (tickTimers ((State.reset.setDt 2#8).setSt 0#8)).dt = 1#8 ∧
    (tickTimers ((State.reset.setDt 2#8).setSt 0#8)).st = 0#8 := by decide
theorem test_setKey : (setKey 5#4 true State.reset).key 5#4 = true ∧ (setKey 5#4 true State.reset).prevKey 5#4 = false := by
  decide
theorem test_unknown_word : seen 0x5121 State.reset (fun t => (t.pc, t.fault)) = some (0x202#16, none) ∧
    reportOf (State.reset.withFetchWord 16 0x5121) = some ⟨0x5121#16, 0x200#16⟩ := by decide
theorem test_load_over_longer : (loadImage [0x11#8, 0x22#8] (loadImage [0xAA#8, 0xBB#8, 0xCC#8] State.reset)).mem.read 0x202 =
    0xCC#8 := by decide
/-- 2.6: depends on FONT. -/
theorem test_reset_font : State.reset.mem.read 0x4F = 0#8 ∧ State.reset.mem.read 0x50 = 0xF0#8 ∧
    State.reset.mem.read 0x73 = 0xF0#8 ∧ State.reset.mem.read 0x9F = 0x80#8 ∧ State.reset.mem.read 0xA0 = 0#8 := by decide

/-- 60_exceptions.md R209: the codes of the fault output. -/
theorem test_fault_codes : faultCode none = 0 ∧ faultCode (some (.outOfBounds 0x10FE#16)) = 1 ∧
    faultCode (some .stackOverflow) = 2 ∧ faultCode (some .stackUnderflow) = 3 := by decide

/-! ### A witness for the hypotheses of each statement that has some, at the ends of their ranges -/

theorem test_witness_EncodeOfDecodeIsTheWord : decodeWord 0xFF65#16 = .ok (.load 15#4) := by decide

theorem test_witness_DecodeAgreesWithOpcodeTable : (⟨"LD_Vx___I", 0xF065#16, 0xF0FF#16⟩ : OpcodeRow) ∈ opcodeTable ∧
    0xFF65#16 &&& 0xF0FF#16 = 0xF065#16 := by decide

theorem test_witness_StepRunsTheDecodedInstruction :
    ((State.reset.setPc 0xFFE#16).setMem [(0xFFE, 0x1F#8), (0xFFF, 0xFF#8)]).fault = none ∧
    ((State.reset.setPc 0xFFE#16).setMem [(0xFFE, 0x1F#8), (0xFFF, 0xFF#8)]).pc.toNat ≤ 0xFFE ∧
    decodeWord ((State.reset.setPc 0xFFE#16).setMem [(0xFFE, 0x1F#8), (0xFFF, 0xFF#8)]).fetchWord = .ok (.jp 0xFFF#12) ∧
    (Instr.jp 0xFFF#12).wellFormed = true := by decide

theorem test_witness_UnknownWordIsReportedNoOp :
    (State.reset.setPc 0xFFE#16).fault = none ∧ (State.reset.setPc 0xFFE#16).pc.toNat ≤ 0xFFE ∧
    decodeWord (State.reset.setPc 0xFFE#16).fetchWord = .error (.unknownInstruction 0x0000#16) := by decide

theorem test_witness_FetchPastTheEndFaults :
    (State.reset.setPc 0xFFF#16).fault = none ∧ 0xFFE < (State.reset.setPc 0xFFF#16).pc.toNat ∧
    0xFFE < (State.reset.setPc 0x10FE#16).pc.toNat := by decide

theorem test_witness_HaltedCoreStaysAsItIs :
    (State.reset.setFault (some .stackUnderflow)).fault = some .stackUnderflow := rfl

theorem test_witness_FaultingStepChangesOnlyTheRecord :
    ∃ t, step (State.reset.setPc 0xFFF#16) = .next t ∧ t.fault ≠ (State.reset.setPc 0xFFF#16).fault :=
  ⟨_, rfl, by decide⟩

theorem test_witness_NoFaultExactlyWhenTheStepIsSafe : State.reset.fault = none ∧
    (State.reset.setPc 0xFFF#16).fault = none := by decide

theorem test_witness_EveryExecuteFaultIsPrecise :
    faultOf .ret State.reset = some .stackUnderflow ∧
    faultOf (.call 0#12) (State.reset.setSp 16) = some .stackOverflow ∧
    faultOf (.ldB 0#4) (State.reset.setI 0xFFE#16) = some (.outOfBounds 0x1000#16) ∧
    faultOf (.store 15#4) (State.reset.setI 0xFF1#16) = some (.outOfBounds 0x1000#16) ∧
    faultOf (.load 0#4) (State.reset.setI 0xFFFF#16) = some (.outOfBounds 0xFFFF#16) ∧
    faultOf (.drw 0#4 0#4 1#4) (State.reset.setI 0x1000#16) = some (.outOfBounds 0x1000#16) := by decide

theorem test_witness_EveryInstructionCompletesWithinItsFrame :
    faultOf .ret (State.reset.setSp 1) = none ∧ faultOf (.call 0#12) (State.reset.setSp 15) = none ∧
    faultOf (.ldB 0#4) (State.reset.setI 0xFFD#16) = none ∧ faultOf (.store 15#4) (State.reset.setI 0xFF0#16) = none ∧
    faultOf (.load 0#4) (State.reset.setI 0xFFF#16) = none ∧
    faultOf (.drw 0#4 0#4 0#4) (State.reset.setI 0xFFFF#16) = none ∧ faultOf .cls State.reset = none := by decide

theorem test_witness_EveryInstructionCompletes_clauses :
    mayWrite (.ldImm 0#4 0#8) 15#4 = false ∧ ¬ ((State.reset.setI 0xFFD#16).i.toNat ≤ 0xFFC ∧
      0xFFC < (State.reset.setI 0xFFD#16).i.toNat + storedBytes (.ldB 0#4)) := by decide

theorem test_witness_OnlyRndUsesTheRandomByte :
    (∀ x kk, Instr.cls ≠ .rnd x kk) ∧ ∃ t, exec .cls State.reset = .next t := ⟨(by intro _ _ h; cases h), _, rfl⟩

theorem test_witness_OnlyKeyWaitSeesTheSnapshot :
    (∀ x, Instr.skp 0#4 ≠ .ldVxK x) ∧ ∃ t, exec (.skp 0#4) State.reset = .next t := ⟨(by intro _ h; cases h), _, rfl⟩

theorem test_witness_JumpToItselfHoldsTheState :
    (State.reset.withFetchWord 16 0x1200).fault = none ∧ (State.reset.withFetchWord 16 0x1200).pc.toNat ≤ 0xFFE ∧
    (State.reset.withFetchWord 16 0x1200).pc.toNat = (0x200#12).toNat ∧
    (State.reset.withFetchWord 16 0x1200).fetchWord = 0x1000#16 ||| (0x200#12).setWidth 16 := by decide

theorem test_witness_CallPushesTheReturnAddress :
    State.reset.sp.val < 16 ∧ (State.reset.setSp 15).sp.val < 16 ∧ 14 ≠ (State.reset.setSp 15).sp.val := by decide

theorem test_witness_ReturnPopsTheAddress :
    0 < (State.reset.setSp 1).sp.val ∧ 0 < (State.reset.setSp 16).sp.val := by decide

theorem test_witness_StackFaults : (State.reset.setSp 16).sp.val = 16 ∧ State.reset.sp.val = 0 := by decide

theorem test_witness_ReturnGoesBehindTheMatchingCall :
    (State.reset.setSp 15).sp.val < 16 ∧ ∃ t, exec (.call 0x300#12) (State.reset.setSp 15) = .next t ∧
      (t.setPc 0x400#16).sp = t.sp ∧
      (t.setPc 0x400#16).stackAt (State.reset.setSp 15).sp.val = t.stackAt (State.reset.setSp 15).sp.val :=
  ⟨by decide, _, rfl, rfl, rfl⟩

/-- The register clauses "x other than F" and "every other register" of the arithmetic statements. -/
theorem test_witness_register_clauses : 0#4 ≠ 0xF#4 ∧ (14#4 ≠ 0#4 ∧ 14#4 ≠ 0xF#4) ∧ (15#4 ≠ 0#4) := by decide

theorem test_witness_RandomByteIsMasked : (State.reset.setRndIn (some 0xB7#8)).rndIn = some 0xB7#8 := rfl

theorem test_witness_StepInputReachesRnd :
    (State.reset.withFetchWord 16 0xCFFF).fault = none ∧ (State.reset.withFetchWord 16 0xCFFF).pc.toNat ≤ 0xFFE ∧
    decodeWord (State.reset.withFetchWord 16 0xCFFF).fetchWord = .ok (.rnd 15#4 0xFF#8) := by decide

theorem test_witness_DecimalDigitsAreStored :
    (State.reset.setI 0xFFD#16).i.toNat + 2 ≤ 0xFFF ∧ (State.reset.setI 0xFFE#16).i.toNat + 2 > 0xFFF := by decide

theorem test_witness_RegisterDump_and_RegisterLoad :
    (State.reset.setI 0xFF0#16).i.toNat + (15#4).toNat ≤ 0xFFF ∧
    (State.reset.setI 0xFF1#16).i.toNat + (15#4).toNat > 0xFFF ∧
    (State.reset.setI 0xFFF#16).i.toNat + (0#4).toNat ≤ 0xFFF ∧ (15#4).toNat ≤ (15#4).toNat ∧
    (14#4).toNat < (15#4).toNat := by decide

theorem test_witness_StoredBytesAreFetched :
    (State.reset.setI 0xFF0#16).i.toNat + (15#4).toNat ≤ 0xFFF ∧ (14#4).toNat < (15#4).toNat ∧
    (15#4).toNat = (14#4).toNat + 1 := by decide

/-- A set bit of the sprite lies over cell (0, 0), which is 1: the first clause on VF. -/
theorem test_witness_Draw_collision :
    (withSprite [] [0x80#8] [(0, 0)]).i.toNat + (1#4).toNat ≤ 0x1000 ∧
    ∃ py px, py < 32 ∧ px < 64 ∧ (withSprite [] [0x80#8] [(0, 0)]).fb.cell py px = true ∧
      spriteBit (withSprite [] [0x80#8] [(0, 0)]).mem 0x300 (0 % 32) (0 % 64) 1 py px = true :=
  ⟨by decide, 0, 0, by decide, by decide, by decide, by decide⟩

/-- On a clear screen there is no collision: the second clause on VF. -/
theorem test_witness_Draw_no_collision :
    (State.reset.setI 0xFFF#16).i.toNat + (1#4).toNat ≤ 0x1000 ∧
    ¬ ∃ py px, py < 32 ∧ px < 64 ∧ (State.reset.setI 0xFFF#16).fb.cell py px = true ∧
      spriteBit (State.reset.setI 0xFFF#16).mem 0xFFF (0 % 32) (0 % 64) 1 py px = true := by
  refine ⟨by decide, ?_⟩
  rintro ⟨py, px, _, _, h, _⟩
  have hc : (State.reset.setI 0xFFF#16).fb.cell py px = false := Framebuffer.cell_clear py px
  rw [hc] at h; cases h

theorem test_witness_Draw_no_rows : (0#4).toNat = 0 ∧ ¬ (State.reset.setI 0xFFFF#16).i.toNat + (0#4).toNat ≤ 0x1000 := by
  decide

theorem test_witness_DrawBeyondMemoryFaults :
    0 < (2#4).toNat ∧ (State.reset.setI 0xFFF#16).i.toNat + (2#4).toNat > 0x1000 ∧
    0 < (1#4).toNat ∧ (State.reset.setI 0xFFFF#16).i.toNat + (1#4).toNat > 0x1000 := by decide

theorem test_witness_DrawingTwiceRestoresTheScreen : 0#4 ≠ 0xF#4 ∧ 14#4 ≠ 0xF#4 ∧
    (State.reset.setI 0xFF1#16).i.toNat + (15#4).toNat ≤ 0x1000 ∧ (0#4).toNat = 0 := by decide

/-- The hypotheses of the statement expected to fail are met (here its conclusion holds: the cell was 0 at first). -/
theorem test_witness_SecondDrawAlwaysCollides :
    ∃ t u, exec (.drw 0#4 1#4 1#4) (withSprite [] [0x80#8] []) = .next t ∧ exec (.drw 0#4 1#4 1#4) t = .next u ∧
      (withSprite [] [0x80#8] []).i.toNat + (1#4).toNat ≤ 0x1000 ∧
      ∃ py px, py < 32 ∧ px < 64 ∧ spriteBit (withSprite [] [0x80#8] []).mem 0x300 (0 % 32) (0 % 64) 1 py px = true :=
  ⟨_, _, rfl, rfl, by decide, 0, 0, by decide, by decide, by decide⟩

theorem test_witness_KeyWaitCompletesOnRelease :
    (withKeys [] [15] []).prevKey 15#4 = true ∧ (withKeys [] [15] []).key 15#4 = false ∧
    ∀ j : Nibble, j.toNat < (15#4).toNat →
      ¬ ((withKeys [] [15] []).prevKey j = true ∧ (withKeys [] [15] []).key j = false) := by decide

theorem test_witness_KeyWaitCompletesOnRelease_lowest :
    (withKeys [] [0, 9] []).prevKey 0#4 = true ∧ (withKeys [] [0, 9] []).key 0#4 = false ∧
    ∀ j : Nibble, j.toNat < (0#4).toNat →
      ¬ ((withKeys [] [0, 9] []).prevKey j = true ∧ (withKeys [] [0, 9] []).key j = false) := by decide

theorem test_witness_KeyWaitRepeatsWithoutRelease :
    ∀ k : Nibble, ¬ ((withKeys [7] [7] []).prevKey k = true ∧ (withKeys [7] [7] []).key k = false) := by decide

theorem test_witness_KeySeenDownThenReleasedCompletesTheWait :
    (∀ j : Nibble, ¬ ((withKeys [15] [] []).prevKey j = true ∧ (withKeys [15] [] []).key j = false)) ∧
    (withKeys [15] [] []).key 15#4 = true := by decide

theorem test_witness_SetKeyWritesOneFlag : 0#4 ≠ 15#4 := by decide

theorem test_witness_LoadProgramCopiesOrRefuses :
    (List.replicate 3584 0x12#8).length ≤ 3584 ∧ 3584 < (List.replicate 3585 0x12#8).length := by
  simp only [List.length_replicate]; decide

theorem test_witness_HostReadsChangeNothing : State.reset.fault = none ∧
    (State.reset.setFault (some (.outOfBounds 0x1000#16))).fault = some (.outOfBounds 0x1000#16) := ⟨rfl, rfl⟩

theorem test_witness_NothingRunsBeforeReset : HostOp.step 0#8 ≠ .reset ∧ HostOp.tickTimers ≠ .reset := by decide

/-- PC at the top of its range. -/
theorem test_witness_StepKeepsTheInvariant :
    Inv (State.reset.setPc 0x10FE#16) ∧ ∃ t, step (State.reset.setPc 0x10FE#16) = .next t := by
  refine ⟨⟨Memory.wf_nil, by decide, ?_, ?_⟩, _, rfl⟩
  · intro j; change (State.reset.stackAt j).toNat ≤ 0x1000; simp [State.stackAt, State.reset]
  · intro a h; cases h

theorem test_witness_EveryReachableStateSatisfiesTheInvariant :
    ∃ t replies, runOps [.reset, .step 0x00#8] none = .next (some t, replies) := ⟨_, _, rfl⟩

end Sys2Proof.Tests
end

/-! ## Completion or fault: what every instruction answers

`exec` either completes, with the state `completed i s`, or records the fault of `faultOf` and changes nothing else.
Frames, noninterference and the invariant are read off these two equations. -/

namespace Sys2Proof.Machine

/-- The state in which an instruction that meets no fault completes (40_control_flow.md to 44_keypad_timers.md). It is
tied to the model by `exec_eq_completed`. -/
def completed (i : Instr) (s : State) : State :=
  match i with
  | .cls => s.advance.setFb Framebuffer.clear
  | .ret => s.advance.pop.setPc (s.stackAt (s.sp.val - 1))
  | .jp nnn => s.advance.setPc (addrOperand nnn)
  | .call nnn => (s.advance.push s.advance.pc).setPc (addrOperand nnn)
  | .seImm x kk => s.skipIf (s.reg x == kk)
  | .sneImm x kk => s.skipIf (s.reg x != kk)
  | .seReg x y => s.skipIf (s.reg x == s.reg y)
  | .ldImm x kk => s.advance.setReg x kk
  | .addImm x kk => s.advance.setReg x (s.reg x + kk)
  | .ldReg x y => s.advance.setReg x (s.reg y)
  | .orReg x y => s.advance.setRegAndFlag x (s.reg x ||| s.reg y) 0#8
  | .andReg x y => s.advance.setRegAndFlag x (s.reg x &&& s.reg y) 0#8
  | .xorReg x y => s.advance.setRegAndFlag x (s.reg x ^^^ s.reg y) 0#8
  | .addReg x y => s.advance.setRegAndFlag x (s.reg x + s.reg y) (carryFlag (s.reg x) (s.reg y))
  | .subReg x y => s.advance.setRegAndFlag x (s.reg x - s.reg y) (noBorrowFlag (s.reg x) (s.reg y))
  | .shr x y => s.advance.setRegAndFlag x (s.reg y >>> 1) (lowBitFlag (s.reg y))
  | .subn x y => s.advance.setRegAndFlag x (s.reg y - s.reg x) (noBorrowFlag (s.reg y) (s.reg x))
  | .shl x y => s.advance.setRegAndFlag x (s.reg y <<< 1) (highBitFlag (s.reg y))
  | .sneReg x y => s.skipIf (s.reg x != s.reg y)
  | .ldI nnn => s.advance.setI (addrOperand nnn)
  | .jpV0 nnn => s.advance.setPc (addrOperand nnn + byteOperand (s.reg 0#4))
  | .rnd x kk => s.useRnd.advance.setReg x (s.rndByte &&& kk)
  | .drw x y n =>
    (s.advance.setFb
      (drawSprite s.mem s.i.toNat (originY (s.reg y)) (originX (s.reg x)) n.toNat s.fb).1).setReg flagReg
      (flagByte (drawSprite s.mem s.i.toNat (originY (s.reg y)) (originX (s.reg x)) n.toNat s.fb).2)
  | .skp x => s.skipIf (s.key (keyOperand (s.reg x)))
  | .sknp x => s.skipIf (!s.key (keyOperand (s.reg x)))
  | .ldVxDT x => s.advance.setReg x s.dt
  | .ldVxK x =>
    match s.releasedKey with
    | some k => (s.advance.setPrevKeys s.keys).setReg x (k.setWidth 8)
    | none => s.setPrevKeys s.keys
  | .ldDTVx x => s.advance.setDt (s.reg x)
  | .ldSTVx x => s.advance.setSt (s.reg x)
  | .addI x => s.advance.setI (s.i + byteOperand (s.reg x))
  | .ldF x => s.advance.setI (glyphAddr (s.reg x))
  | .ldB x => s.advance.setMem (s.mem.writeList s.i.toNat (decimalDigits (s.reg x)))
  | .store x => (s.advance.setMem (s.mem.writeList s.i.toNat (firstRegs s x))).setI (advancedI s x)
  | .load x => (s.advance.setV (loadedRegs s s.i.toNat x)).setI (advancedI s x)

theorem completed_ldVxK_some {s : State} {k : Nibble} (x : Nibble) (h : s.releasedKey = some k) :
    completed (.ldVxK x) s = (s.advance.setPrevKeys s.keys).setReg x (k.setWidth 8) := by
  simp only [completed, h]

theorem completed_ldVxK_none {s : State} (x : Nibble) (h : s.releasedKey = none) :
    completed (.ldVxK x) s = s.setPrevKeys s.keys := by
  simp only [completed, h]

/-- Going back by the two bytes of the advance leaves PC as it was (44_keypad_timers.md R192 (a)). -/
theorem State.setPc_advance_sub (s : State) (k : Vector Bool 16) :
    (s.advance.setPrevKeys k).setPc (s.advance.pc - 2#16) = s.setPrevKeys k := by
  rw [State.advance_pc, BitVec.add_sub_cancel]
  rfl

/-- Without a fault of R205 to R207 the instruction completes. -/
theorem exec_eq_completed {i : Instr} {s : State} (h : faultOf i s = none) : exec i s = .next (completed i s) := by
  cases i with
  | ret => exact exec_ret_ok (by simpa [faultOf] using h)
  | call nnn => exact exec_call_ok nnn (by simpa [faultOf] using h)
  | drw x y n => exact exec_drw_ok x y n (accessFault_eq_none.1 h)
  | ldB x => exact exec_ldB_ok x ((accessFault_eq_none.1 h).resolve_left (by simp))
  | store x => exact exec_store_ok x ((accessFault_eq_none.1 h).resolve_left (by simp))
  | load x => exact exec_load_ok x ((accessFault_eq_none.1 h).resolve_left (by simp))
  | ldVxK x =>
    cases hk : s.releasedKey with
    | some k => rw [exec_ldVxK_some x hk, completed_ldVxK_some x hk]
    | none => rw [exec_ldVxK_none x hk, completed_ldVxK_none x hk, State.setPc_advance_sub]
  | _ => rfl

/-- A range check that meets a fault records it and changes nothing else. -/
theorem inRange_eq_setFault {base : Word} {len : Nat} {s : State} {go : Result} {f : Fault}
    (h : accessFault base len = some f) : inRange base len s go = .next (s.setFault (some f)) := by
  rw [inRange_accessFault, h]

/-- With a fault of R205 to R207 the instruction records it and changes nothing else (60_exceptions.md R204). -/
theorem exec_eq_setFault {i : Instr} {s : State} {f : Fault} (h : faultOf i s = some f) :
    exec i s = .next (s.setFault (some f)) := by
  cases i with
  | ret =>
    obtain ⟨hsp, rfl⟩ : s.sp.val = 0 ∧ Fault.stackUnderflow = f := by simpa [faultOf] using h
    exact if_pos hsp
  | call nnn =>
    obtain ⟨hsp, rfl⟩ : s.sp.val = 16 ∧ Fault.stackOverflow = f := by simpa [faultOf] using h
    exact if_pos hsp
  | drw x y n => exact inRange_eq_setFault h
  | ldB x => exact inRange_eq_setFault h
  | store x => exact inRange_eq_setFault h
  | load x => exact inRange_eq_setFault h
  | _ => cases h

/-- Everything an instruction can answer. -/
theorem exec_cases {i : Instr} {s t : State} (h : exec i s = .next t) :
    (faultOf i s = none ∧ t = completed i s) ∨ ∃ f, faultOf i s = some f ∧ t = s.setFault (some f) := by
  cases hf : faultOf i s with
  | none => rw [exec_eq_completed hf] at h; cases h; exact .inl ⟨rfl, rfl⟩
  | some f => rw [exec_eq_setFault hf] at h; cases h; exact .inr ⟨f, rfl, rfl⟩

/-- A recorded address lies above memory (60_exceptions.md R205, R209). -/
theorem accessFault_addr {base : Word} {len : Nat} {a : Word} (h : accessFault base len = some (.outOfBounds a)) :
    0x1000 ≤ a.toNat := by
  obtain ⟨-, rfl⟩ : _ ∧ BitVec.ofNat 16 (max base.toNat 0x1000) = a := by simpa [accessFault] using h
  have := base.isLt
  rw [BitVec.toNat_ofNat]
  omega

theorem faultOf_addr {i : Instr} {s : State} {a : Word} (h : faultOf i s = some (.outOfBounds a)) :
    0x1000 ≤ a.toNat := by
  cases i with
  | ret => simp [faultOf] at h
  | call nnn => simp [faultOf] at h
  | drw x y n => exact accessFault_addr h
  | ldB x => exact accessFault_addr h
  | store x => exact accessFault_addr h
  | load x => exact accessFault_addr h
  | _ => cases h

end Sys2Proof.Machine

/-! ## Frames: one rule for each state operation

Each rule extends a frame by an update of a piece that the frame lists as changed, so an instruction's frame is read off
the chain of updates it makes (10_state.md R40). -/

namespace Sys2Proof.Machine

section
variable {ps : List Part} {s t : State}

theorem Frame.refl : Frame ps s s := by
  intro p _
  cases p with
  | rndInput => exact ⟨rfl, rfl⟩
  | regs | stack | keys | snapshot | memory => exact fun _ => rfl
  | display => exact fun _ _ => rfl
  | i | pc | sp | dt | st | fault => exact rfl

theorem Frame.setPc (h : Frame ps s t) (a : Word) (hp : Part.pc ∈ ps) : Frame ps s (t.setPc a) := by
  intro p hn
  cases p with
  | pc => exact absurd hp hn
  | _ => exact h _ hn

theorem Frame.setV (h : Frame ps s t) (v : Vector Byte 16) (hp : Part.regs ∈ ps) : Frame ps s (t.setV v) := by
  intro p hn
  cases p with
  | regs => exact absurd hp hn
  | _ => exact h _ hn

theorem Frame.setI (h : Frame ps s t) (a : Word) (hp : Part.i ∈ ps) : Frame ps s (t.setI a) := by
  intro p hn
  cases p with
  | i => exact absurd hp hn
  | _ => exact h _ hn

theorem Frame.setSp (h : Frame ps s t) (n : Fin 17) (hp : Part.sp ∈ ps) : Frame ps s (t.setSp n) := by
  intro p hn
  cases p with
  | sp => exact absurd hp hn
  | _ => exact h _ hn

theorem Frame.setStack (h : Frame ps s t) (e : Vector Word 16) (hp : Part.stack ∈ ps) :
    Frame ps s (t.setStack e) := by
  intro p hn
  cases p with
  | stack => exact absurd hp hn
  | _ => exact h _ hn

theorem Frame.setDt (h : Frame ps s t) (b : Byte) (hp : Part.dt ∈ ps) : Frame ps s (t.setDt b) := by
  intro p hn
  cases p with
  | dt => exact absurd hp hn
  | _ => exact h _ hn

theorem Frame.setSt (h : Frame ps s t) (b : Byte) (hp : Part.st ∈ ps) : Frame ps s (t.setSt b) := by
  intro p hn
  cases p with
  | st => exact absurd hp hn
  | _ => exact h _ hn

theorem Frame.setFb (h : Frame ps s t) (f : Framebuffer) (hp : Part.display ∈ ps) : Frame ps s (t.setFb f) := by
  intro p hn
  cases p with
  | display => exact absurd hp hn
  | _ => exact h _ hn

theorem Frame.setPrevKeys (h : Frame ps s t) (k : Vector Bool 16) (hp : Part.snapshot ∈ ps) :
    Frame ps s (t.setPrevKeys k) := by
  intro p hn
  cases p with
  | snapshot => exact absurd hp hn
  | _ => exact h _ hn

theorem Frame.setMem (h : Frame ps s t) (m : Memory) (hp : Part.memory ∈ ps) : Frame ps s (t.setMem m) := by
  intro p hn
  cases p with
  | memory => exact absurd hp hn
  | _ => exact h _ hn

theorem Frame.setRndIn (h : Frame ps s t) (r : Option Byte) (hp : Part.rndInput ∈ ps) :
    Frame ps s (t.setRndIn r) := by
  intro p hn
  cases p with
  | rndInput => exact absurd hp hn
  | _ => exact h _ hn

theorem Frame.setRndCount (h : Frame ps s t) (n : Nat) (hp : Part.rndInput ∈ ps) :
    Frame ps s (t.setRndCount n) := by
  intro p hn
  cases p with
  | rndInput => exact absurd hp hn
  | _ => exact h _ hn

/-! ### The derived updates -/

theorem Frame.advance (h : Frame ps s t) (hp : Part.pc ∈ ps) : Frame ps s t.advance := h.setPc _ hp

theorem Frame.skipIf (h : Frame ps s t) (c : Bool) (hp : Part.pc ∈ ps) : Frame ps s (t.skipIf c) := by
  cases c with
  | true => exact (h.advance hp).setPc _ hp
  | false => exact h.advance hp

theorem Frame.setReg (h : Frame ps s t) (x : Nibble) (b : Byte) (hp : Part.regs ∈ ps) : Frame ps s (t.setReg x b) :=
  h.setV _ hp

theorem Frame.setRegAndFlag (h : Frame ps s t) (x : Nibble) (a f : Byte) (hp : Part.regs ∈ ps) :
    Frame ps s (t.setRegAndFlag x a f) :=
  (h.setReg x a hp).setReg flagReg f hp

theorem Frame.push (h : Frame ps s t) (a : Word) (hs : Part.stack ∈ ps) (hp : Part.sp ∈ ps) :
    Frame ps s (t.push a) :=
  (h.setStack _ hs).setSp _ hp

theorem Frame.pop (h : Frame ps s t) (hp : Part.sp ∈ ps) : Frame ps s t.pop := h.setSp _ hp

theorem Frame.useRnd (h : Frame ps s t) (hp : Part.rndInput ∈ ps) : Frame ps s t.useRnd := by
  unfold State.useRnd
  split
  · exact h.setRndIn none hp
  · exact h.setRndCount _ hp

end

/-! ### The frame of every instruction -/

/-- PC is in every instruction's list. -/
theorem pc_mem_touches (i : Instr) : Part.pc ∈ touches i := by cases i <;> exact List.mem_cons_self

/-- No instruction that completes writes the fault record. -/
theorem fault_notMem_touches (i : Instr) : Part.fault ∉ touches i := by cases i <;> simp [touches]

/-- Completion changes only the pieces the spec gives the instruction (10_state.md R40, 20_memory.md R67). -/
theorem completed_frame (i : Instr) (s : State) : Frame (touches i) s (completed i s) := by
  have pc := pc_mem_touches i
  have adv : Frame (touches i) s s.advance := Frame.refl.advance pc
  cases i with
  | cls => exact adv.setFb _ (by simp [touches])
  | ret => exact (adv.pop (by simp [touches])).setPc _ pc
  | jp | jpV0 => exact adv.setPc _ pc
  | call => exact (adv.push _ (by simp [touches]) (by simp [touches])).setPc _ pc
  | seImm | sneImm | seReg | sneReg | skp | sknp => exact Frame.refl.skipIf _ pc
  | ldImm | addImm | ldReg | ldVxDT => exact adv.setReg _ _ (by simp [touches])
  | orReg | andReg | xorReg | addReg | subReg | shr | subn | shl =>
    exact adv.setRegAndFlag _ _ _ (by simp [touches])
  | ldI | addI | ldF => exact adv.setI _ (by simp [touches])
  | rnd => exact ((Frame.refl.useRnd (by simp [touches])).advance pc).setReg _ _ (by simp [touches])
  | drw => exact (adv.setFb _ (by simp [touches])).setReg _ _ (by simp [touches])
  | ldVxK x =>
    cases hk : s.releasedKey with
    | some k =>
      rw [completed_ldVxK_some x hk]
      exact (adv.setPrevKeys _ (by simp [touches])).setReg _ _ (by simp [touches])
    | none =>
      rw [completed_ldVxK_none x hk]
      exact Frame.refl.setPrevKeys _ (by simp [touches])
  | ldDTVx => exact adv.setDt _ (by simp [touches])
  | ldSTVx => exact adv.setSt _ (by simp [touches])
  | ldB => exact adv.setMem _ (by simp [touches])
  | store => exact (adv.setMem _ (by simp [touches])).setI _ (by simp [touches])
  | load => exact (adv.setV _ (by simp [touches])).setI _ (by simp [touches])

theorem completed_fault (i : Instr) (s : State) : (completed i s).fault = s.fault :=
  completed_frame i s .fault (fault_notMem_touches i)

end Sys2Proof.Machine

/-! ## The memory, PC and stack after completion -/

namespace Sys2Proof.Machine

/-! ### Memory -/

/-- Ascending writes leave every byte outside their range alone. -/
theorem Memory.read_writeList_outside (bs : List Byte) : ∀ (m : Memory) (a b : Nat),
    ¬ (a ≤ b ∧ b < a + bs.length) → Memory.read (Memory.writeList m a bs) b = Memory.read m b := by
  induction bs with
  | nil => intro m a b _; rfl
  | cons x xs ih =>
    intro m a b h
    simp only [List.length_cons] at h
    rw [Memory.writeList, ih _ _ _ (by omega), Memory.read_write, if_neg (by omega)]

/-- All an instruction does to memory is to store `storedBytes` bytes from I upward (20_memory.md R67). -/
theorem completed_mem (i : Instr) (s : State) :
    ∃ bs : List Byte, bs.length = storedBytes i ∧ (completed i s).mem = s.mem.writeList s.i.toNat bs := by
  cases i with
  | ldB x => exact ⟨decimalDigits (s.reg x), rfl, rfl⟩
  | store x => exact ⟨firstRegs s x, firstRegs_length s x, rfl⟩
  | seImm | sneImm | seReg | sneReg | skp | sknp => exact ⟨[], rfl, State.skipIf_mem s _⟩
  | rnd => exact ⟨[], rfl, State.useRnd_mem s⟩
  | ldVxK x =>
    refine ⟨[], rfl, ?_⟩
    cases hk : s.releasedKey with
    | some k => rw [completed_ldVxK_some x hk]; rfl
    | none => rw [completed_ldVxK_none x hk]; rfl
  | _ => exact ⟨[], rfl, rfl⟩

theorem completed_read (i : Instr) (s : State) {a : Nat}
    (h : ¬ (s.i.toNat ≤ a ∧ a < s.i.toNat + storedBytes i)) : (completed i s).mem.read a = s.mem.read a := by
  obtain ⟨bs, hlen, hmem⟩ := completed_mem i s
  rw [hmem, Memory.read_writeList_outside _ _ _ _ (by rwa [hlen])]

theorem completed_mem_wf (i : Instr) {s : State} (h : s.mem.wf) : (completed i s).mem.wf := by
  obtain ⟨bs, -, hmem⟩ := completed_mem i s
  rw [hmem]
  exact Memory.wf_writeList bs h _

/-! ### PC (10_state.md R26) -/

theorem addrOperand_toNat_lt (nnn : Addr12) : (addrOperand nnn).toNat < 0x1000 := by
  have := nnn.isLt
  rw [addrOperand, BitVec.toNat_setWidth]
  omega

theorem jumpTarget_toNat_le (nnn : Addr12) (b : Byte) : (addrOperand nnn + byteOperand b).toNat ≤ 0x10FE := by
  have hn := nnn.isLt
  have hb := b.isLt
  rw [BitVec.toNat_add, addrOperand, byteOperand, BitVec.toNat_setWidth, BitVec.toNat_setWidth]
  omega

theorem advance_pc_toNat_le {s : State} (h : s.pc.toNat ≤ 0xFFE) : s.advance.pc.toNat ≤ 0x1000 := by
  rw [State.advance_pc, BitVec.toNat_add]
  change (s.pc.toNat + 2) % 65536 ≤ _
  omega

theorem skipIf_pc_toNat_le {s : State} (h : s.pc.toNat ≤ 0xFFE) (c : Bool) : (s.skipIf c).pc.toNat ≤ 0x1002 := by
  have hadv := advance_pc_toNat_le h
  cases c with
  | false => exact hadv.trans (by decide)
  | true =>
    change (s.advance.pc + 2#16).toNat ≤ _
    rw [BitVec.toNat_add]
    change (s.advance.pc.toNat + 2) % 65536 ≤ _
    omega

/-- After an instruction fetched inside memory, PC is at most 0x10FE: the most is JP V0 (R127). -/
theorem completed_pc_toNat_le (i : Instr) {s : State} (h : s.pc.toNat ≤ 0xFFE)
    (hstack : ∀ j, (s.stackAt j).toNat ≤ 0x1000) : (completed i s).pc.toNat ≤ 0x10FE := by
  have hadv : s.advance.pc.toNat ≤ 0x10FE := (advance_pc_toNat_le h).trans (by decide)
  cases i with
  | ret => exact (hstack _).trans (by decide)
  | jp nnn | call nnn => exact (addrOperand_toNat_lt nnn).le.trans (by decide)
  | jpV0 nnn => exact jumpTarget_toNat_le nnn _
  | seImm | sneImm | seReg | sneReg | skp | sknp => exact (skipIf_pc_toNat_le h _).trans (by decide)
  | rnd x kk =>
    change (s.useRnd.pc + 2#16).toNat ≤ _
    rwa [State.useRnd_pc]
  | ldVxK x =>
    cases hk : s.releasedKey with
    | some k => rwa [completed_ldVxK_some x hk]
    | none => rw [completed_ldVxK_none x hk]; exact h.trans (by decide)
  | _ => exact hadv

/-! ### The stack (10_state.md R27) -/

/-- CALL alone writes a stack entry, and it writes an address at most 0x1000 (40_control_flow.md R122). -/
theorem completed_stackAt_toNat_le (i : Instr) {s : State} (h : s.pc.toNat ≤ 0xFFE)
    (hstack : ∀ j, (s.stackAt j).toNat ≤ 0x1000) (j : Nat) : ((completed i s).stackAt j).toNat ≤ 0x1000 := by
  by_cases hi : Part.stack ∈ touches i
  · cases i with
    | call nnn =>
      change ((s.advance.push s.advance.pc).stackAt j).toNat ≤ _
      rw [State.stackAt_push]
      split
      · exact advance_pc_toNat_le h
      · exact hstack j
    | _ => simp [touches] at hi
  · rw [completed_frame i s .stack hi j]
    exact hstack j

/-! ## The invariant (10_state.md R26) -/

/-- The invariant speaks of memory, PC, the stack and the fault record only. -/
theorem Inv.congr {s t : State} (h : Inv s) (hmem : t.mem = s.mem) (hpc : t.pc = s.pc) (hstack : t.stack = s.stack)
    (hfault : t.fault = s.fault) : Inv t := by
  unfold Inv State.stackAt
  rw [hmem, hpc, hstack, hfault]
  exact h

theorem Inv.setFault {s : State} (h : Inv s) {f : Option Fault}
    (hf : ∀ a, f = some (.outOfBounds a) → 0x1000 ≤ a.toNat) : Inv (s.setFault f) := by
  obtain ⟨hmem, hpc, hstack, -⟩ := h
  exact ⟨hmem, hpc, hstack, hf⟩

theorem Inv.completed {s : State} (h : Inv s) (hfetch : s.pc.toNat ≤ 0xFFE) (i : Instr) : Inv (completed i s) := by
  obtain ⟨hmem, -, hstack, hfault⟩ := h
  refine ⟨completed_mem_wf i hmem, completed_pc_toNat_le i hfetch hstack,
    completed_stackAt_toNat_le i hfetch hstack, ?_⟩
  rw [completed_fault]
  exact hfault

/-- An unknown word only moves PC, from inside memory (60_exceptions.md R203). -/
theorem Inv.advance {s : State} (h : Inv s) (hfetch : s.pc.toNat ≤ 0xFFE) : Inv s.advance := by
  obtain ⟨hmem, -, hstack, hfault⟩ := h
  exact ⟨hmem, (advance_pc_toNat_le hfetch).trans (by decide), hstack, hfault⟩

theorem Inv.of_exec {s t : State} (h : Inv s) (hfetch : s.pc.toNat ≤ 0xFFE) {i : Instr} (he : exec i s = .next t) :
    Inv t := by
  obtain ⟨-, rfl⟩ | ⟨f, hf, rfl⟩ := exec_cases he
  · exact h.completed hfetch i
  · refine h.setFault fun a ha => ?_
    obtain rfl := Option.some.inj ha
    exact faultOf_addr hf

/-- Everything a step can do (60_exceptions.md R200, R210): nothing on a halted core, the fault of the fetch beyond
memory, and inside memory an unknown word passed over or an instruction executed. -/
theorem step_cases {s t : State} (h : step s = .next t) :
    (s.halted = true ∧ t = s) ∨
      (s.halted = false ∧ 0xFFE < s.pc.toNat ∧ t = s.setFault (some (.outOfBounds (lowestBad s.pc)))) ∨
      (s.halted = false ∧ s.pc.toNat ≤ 0xFFE ∧
        ((∃ e, decodeWord s.fetchWord = .error e ∧ t = s.advance) ∨
          ∃ i, decodeWord s.fetchWord = .ok i ∧ exec i s = .next t)) := by
  unfold step at h
  cases hhalt : s.halted with
  | true => rw [hhalt] at h; cases h; exact .inl ⟨rfl, rfl⟩
  | false =>
    rw [hhalt, if_neg Bool.false_ne_true] at h
    refine .inr ?_
    have hr := rangeOk_iff s.pc 2
    obtain ⟨hok, he⟩ | ⟨hbad, he⟩ := inRange_cases s.pc 2 s (runWord s.fetchWord s)
    · rw [he, runWord] at h
      have hfetch : s.pc.toNat ≤ 0xFFE := by have := hr.1 hok; omega
      refine .inr ⟨rfl, hfetch, ?_⟩
      cases hd : decodeWord s.fetchWord with
      | ok i => rw [hd] at h; exact .inr ⟨i, rfl, h⟩
      | error e => rw [hd] at h; cases h; exact .inl ⟨e, rfl, rfl⟩
    · rw [he] at h; cases h
      have hfetch : 0xFFE < s.pc.toNat := by
        by_contra hle
        rw [hr.2 (by omega)] at hbad
        cases hbad
      exact .inl ⟨rfl, hfetch, rfl⟩

/-- Every kind of step keeps the invariant. -/
theorem Inv.of_step {s t : State} (h : Inv s) (hs : step s = .next t) : Inv t := by
  obtain ⟨-, rfl⟩ | ⟨-, -, rfl⟩ | ⟨-, hfetch, ⟨_, -, rfl⟩ | ⟨i, -, he⟩⟩ := step_cases hs
  · exact h
  · refine h.setFault fun a ha => ?_
    cases ha
    rw [lowestBad_toNat]
    exact le_max_right _ _
  · exact h.advance hfetch
  · exact h.of_exec hfetch he

/-- Settles O59: a step does nothing, records a fault, passes over an unknown word or executes an instruction, and
each of these keeps the invariant. -/
theorem stepKeepsTheInvariant : Obligations.StepKeepsTheInvariant := by
  unfold Obligations.StepKeepsTheInvariant
  exact fun _ _ h hs => h.of_step hs

end Sys2Proof.Machine

/-! ## All instructions at once: frames and the key snapshot -/

namespace Sys2Proof.Machine

/-! ### Registers -/

theorem State.reg_setReg_of_ne (s : State) {x r : Nibble} (b : Byte) (h : r ≠ x) : (s.setReg x b).reg r = s.reg r := by
  rw [State.reg_setReg, if_neg h]

theorem State.reg_setRegAndFlag_of_ne (s : State) {x r : Nibble} (a f : Byte) (h : r ≠ x ∧ r ≠ flagReg) :
    (s.setRegAndFlag x a f).reg r = s.reg r := by
  rw [State.reg_setRegAndFlag, if_neg h.2, if_neg h.1]

/-- Completion writes only the registers the spec gives the instruction (10_state.md R22, R23). -/
theorem completed_reg (i : Instr) (s : State) {r : Nibble} (h : mayWrite i r = false) :
    (completed i s).reg r = s.reg r := by
  cases i with
  | ldImm | addImm | ldReg | ldVxDT | drw => exact State.reg_setReg_of_ne _ _ (by simpa [mayWrite] using h)
  | orReg | andReg | xorReg | addReg | subReg | shr | subn | shl =>
    exact State.reg_setRegAndFlag_of_ne _ _ _ (by simpa [mayWrite] using h)
  | rnd => exact (State.reg_setReg_of_ne _ _ (by simpa [mayWrite] using h)).trans (State.reg_useRnd s r)
  | ldVxK x =>
    cases hk : s.releasedKey with
    | some k => rw [completed_ldVxK_some x hk]; exact State.reg_setReg_of_ne _ _ (by simpa [mayWrite] using h)
    | none => rw [completed_ldVxK_none x hk]; rfl
  | load x =>
    refine (State.reg_loadedRegs s s.advance s.i.toNat x r).trans (if_neg ?_)
    simpa [mayWrite] using h
  | _ => exact completed_frame _ s .regs (by simp [touches]) r

/-- Settles O15: where no fault is met `exec` answers `completed i s`, and that state has the frame, the registers and
the bytes of memory. -/
theorem everyInstructionCompletesWithinItsFrame : Obligations.EveryInstructionCompletesWithinItsFrame := by
  unfold Obligations.EveryInstructionCompletesWithinItsFrame
  intro i s hf
  exact ⟨completed i s, exec_eq_completed hf, completed_fault i s, completed_frame i s,
    fun _ hr => completed_reg i s hr, fun _ ha => completed_read i s ha⟩

/-! ### The key snapshot (10_state.md R33) -/

theorem faultOf_setPrevKeys (i : Instr) (s : State) (k : Vector Bool 16) :
    faultOf i (s.setPrevKeys k) = faultOf i s := by
  cases i <;> rfl

theorem State.skipIf_setPrevKeys (s : State) (k : Vector Bool 16) (c : Bool) :
    (s.setPrevKeys k).skipIf c = (s.skipIf c).setPrevKeys k := by
  cases c <;> rfl

theorem State.useRnd_setPrevKeys (s : State) (k : Vector Bool 16) :
    (s.setPrevKeys k).useRnd = s.useRnd.setPrevKeys k := by
  unfold State.useRnd
  rw [State.setPrevKeys_rndIn]
  split <;> rfl

theorem completed_setPrevKeys {i : Instr} (hi : ∀ x, i ≠ .ldVxK x) (s : State) (k : Vector Bool 16) :
    completed i (s.setPrevKeys k) = (completed i s).setPrevKeys k := by
  cases i with
  | ldVxK x => exact absurd rfl (hi x)
  | seImm | sneImm | seReg | sneReg | skp | sknp => exact State.skipIf_setPrevKeys s k _
  | rnd x kk =>
    exact congrArg (fun t : State => t.advance.setReg x (s.rndByte &&& kk)) (State.useRnd_setPrevKeys s k)
  | _ => rfl

/-- Settles O17: neither the fault an instruction meets nor the state it completes in depends on the snapshot. -/
theorem onlyKeyWaitSeesTheSnapshot : Obligations.OnlyKeyWaitSeesTheSnapshot := by
  unfold Obligations.OnlyKeyWaitSeesTheSnapshot
  intro i s t k hi h
  have hfault := faultOf_setPrevKeys i s k
  obtain ⟨hf, rfl⟩ | ⟨f, hf, rfl⟩ := exec_cases h
  · rw [exec_eq_completed (hfault.trans hf), completed_setPrevKeys hi]
  · exact exec_eq_setFault (hfault.trans hf)

end Sys2Proof.Machine

/-! ## Reset, and the invariant over every sequence of host operations -/

namespace Sys2Proof.Machine

/-! ### Reset (10_state.md R39) -/

/-- From every core, reset before or not, Reset gives the reset state; only the count of random bytes drawn is not its
own (70_reset_and_hazards.md R240). -/
theorem applyOp_reset (c : Powered) : ∃ n, applyOp .reset c = .next (some (State.reset.setRndCount n), .done) := by
  cases c with
  | none => exact ⟨0, rfl⟩
  | some s => exact ⟨s.rndCount, rfl⟩

theorem State.reset_reg (r : Nibble) : State.reset.reg r = 0#8 := Vector.getElem_replicate _

theorem State.reset_stackAt (j : Nat) : State.reset.stackAt j = 0#16 := by
  unfold State.stackAt
  split
  · exact Vector.getElem_replicate _
  · rfl

theorem State.reset_key (k : Nibble) : State.reset.key k = false := Vector.getElem_replicate _

theorem State.reset_prevKey (k : Nibble) : State.reset.prevKey k = false := Vector.getElem_replicate _

theorem State.reset_read (a : Nat) :
    State.reset.mem.read a = if 0x50 ≤ a ∧ a ≤ 0x9F then Config.font.getD (a - 0x50) 0#8 else 0#8 := by
  have hrange : (0x50 ≤ a ∧ a < 0x50 + 80) ↔ (0x50 ≤ a ∧ a ≤ 0x9F) := by omega
  change initialByte a = _
  simp only [initialByte, Config.fontBase, Config.fontSize, hrange]

/-- Settles O54: whatever core it starts from, Reset answers the reset state, and each of its pieces has the table's
value. -/
theorem resetGivesTheTablesValues : Obligations.ResetGivesTheTablesValues := by
  unfold Obligations.ResetGivesTheTablesValues
  intro c
  obtain ⟨n, h⟩ := applyOp_reset c
  exact ⟨_, h, State.reset_reg, rfl, rfl, rfl, State.reset_stackAt, rfl, rfl, Framebuffer.cell_clear,
    State.reset_key, State.reset_prevKey, rfl, State.reset_read⟩

/-- Settles O58: memory lists nothing, PC is 0x200, every stack entry is zero and no fault is recorded. -/
theorem resetSatisfiesTheInvariant : Obligations.ResetSatisfiesTheInvariant := by
  unfold Obligations.ResetSatisfiesTheInvariant
  refine ⟨State.reset_mem_wf, by decide, fun j => ?_, fun a ha => ?_⟩
  · rw [State.reset_stackAt]
    decide
  · cases ha

/-! ### The host's operations (60_exceptions.md R220) -/

theorem Inv.loadImage {s : State} (h : Inv s) (image : List Byte) : Inv (loadImage image s) := by
  obtain ⟨hmem, hpc, hstack, hfault⟩ := h
  exact ⟨Memory.wf_writeList image hmem _, hpc, hstack, hfault⟩

/-- A Step with a byte on the random input is a step between two changes of that input. -/
theorem stepWith_eq_next {rnd : Byte} {s t : State} (h : stepWith rnd s = .next t) :
    ∃ u, step (s.setRndIn (some rnd)) = .next u ∧ t = u.setRndIn none := by
  unfold stepWith at h
  cases hs : step (s.setRndIn (some rnd)) with
  | next u => rw [hs] at h; cases h; exact ⟨u, rfl, rfl⟩
  | fault f => rw [hs] at h; cases h
  | refused r => rw [hs] at h; cases h

theorem Inv.of_stepWith {rnd : Byte} {s t : State} (h : Inv s) (hs : stepWith rnd s = .next t) : Inv t := by
  obtain ⟨u, hu, rfl⟩ := stepWith_eq_next hs
  have hin : Inv (s.setRndIn (some rnd)) := h.congr rfl rfl rfl rfl
  exact (hin.of_step hu).congr rfl rfl rfl rfl

/-- The invariant of a core as the host holds it: of its state, if it has been reset. -/
def PoweredInv (c : Powered) : Prop := ∀ s, c = some s → Inv s

theorem poweredInv_none : PoweredInv none := fun _ h => nomatch h

theorem poweredInv_some {s : State} : PoweredInv (some s) ↔ Inv s :=
  ⟨fun h => h s rfl, fun h _ e => Option.some.inj e ▸ h⟩

theorem Inv.of_applyAfterReset {op : HostOp} {s : State} (h : Inv s) {c : Powered} {r : Reply}
    (ha : applyAfterReset op s = .next (c, r)) : PoweredInv c := by
  cases op with
  | reset =>
    cases ha
    exact poweredInv_some.2 (resetSatisfiesTheInvariant.congr rfl rfl rfl rfl)
  | loadProgram image =>
    simp only [applyAfterReset] at ha
    split at ha
    · cases ha; exact poweredInv_some.2 (h.loadImage image)
    · cases ha; exact poweredInv_some.2 h
  | step rnd =>
    simp only [applyAfterReset] at ha
    cases hs : stepWith rnd s with
    | next t => simp only [hs] at ha; cases ha; exact poweredInv_some.2 (h.of_stepWith hs)
    | fault f => simp only [hs] at ha; cases ha
    | refused q => simp only [hs] at ha; cases ha
  | tickTimers | setKey => cases ha; exact poweredInv_some.2 (h.congr rfl rfl rfl rfl)
  | readFramebuffer | readTimers => cases ha; exact poweredInv_some.2 h

theorem PoweredInv.of_applyOp {op : HostOp} {c c' : Powered} {r : Reply} (h : PoweredInv c)
    (ha : applyOp op c = .next (c', r)) : PoweredInv c' := by
  cases c with
  | some s => exact (h s rfl).of_applyAfterReset ha
  | none =>
    cases op with
    | reset => cases ha; exact poweredInv_some.2 resetSatisfiesTheInvariant
    | _ => cases ha

/-- A sequence that goes through is a first operation that does and the rest from there. -/
theorem runOps_cons_eq_next {op : HostOp} {ops : List HostOp} {c c'' : Powered} {rs : List Reply}
    (h : runOps (op :: ops) c = .next (c'', rs)) :
    ∃ c' r rs', applyOp op c = .next (c', r) ∧ runOps ops c' = .next (c'', rs') ∧ rs = r :: rs' := by
  unfold runOps at h
  cases ha : applyOp op c with
  | next p =>
    obtain ⟨c', r⟩ := p
    rw [ha] at h
    cases hr : runOps ops c' with
    | next q =>
      obtain ⟨c₂, rs'⟩ := q
      simp only [hr] at h
      cases h
      exact ⟨c', r, rs', rfl, hr, rfl⟩
    | fault f => simp only [hr] at h; cases h
    | refused q => simp only [hr] at h; cases h
  | fault f => rw [ha] at h; cases h
  | refused q => rw [ha] at h; cases h

/-- Every sequence of host operations keeps the invariant. -/
theorem PoweredInv.of_runOps {ops : List HostOp} : ∀ {c c' : Powered} {rs : List Reply},
    PoweredInv c → runOps ops c = .next (c', rs) → PoweredInv c' := by
  induction ops with
  | nil =>
    intro c c' rs h hr
    cases hr
    exact h
  | cons op ops ih =>
    intro c c' rs h hr
    obtain ⟨c₁, r, rs', ha, hrest, -⟩ := runOps_cons_eq_next hr
    exact ih (h.of_applyOp ha) hrest

/-- Settles O60: a core never reset satisfies the invariant vacuously, and every operation of the host keeps it. -/
theorem everyReachableStateSatisfiesTheInvariant : Obligations.EveryReachableStateSatisfiesTheInvariant := by
  unfold Obligations.EveryReachableStateSatisfiesTheInvariant
  exact fun _ _ _ h => poweredInv_some.1 (poweredInv_none.of_runOps h)

end Sys2Proof.Machine

/-! ## Memory: the byte order of the fetch, and the fetch of stored bytes -/

namespace Sys2Proof.Machine

/-- Two bytes side by side, the first one high (20_memory.md R62). -/
theorem toNat_append_bytes (a b : Byte) : (a ++ b : BitVec (8 + 8)).toNat = 256 * a.toNat + b.toNat := by
  rw [BitVec.toNat_append, ← Nat.shiftLeft_add_eq_or_of_lt b.isLt, Nat.shiftLeft_eq, Nat.mul_comm]

/-- Settles O6: the fetched word is the byte at PC over the byte at PC + 1. -/
theorem fetchIsBigEndian : Obligations.FetchIsBigEndian := by
  unfold Obligations.FetchIsBigEndian
  exact fun _ => toNat_append_bytes _ _

/-- The fetch at a given address reads the two bytes from there (20_memory.md R62). -/
theorem State.fetchWord_setPc (s : State) (a : Word) :
    (s.setPc a).fetchWord = (s.mem.read a.toNat ++ s.mem.read (a.toNat + 1) : BitVec (8 + 8)) := rfl

/-- After the writes of the register dump, the byte at I + j is V[j] (42_index_memory.md R165). -/
theorem read_firstRegs_add {s : State} {x : Nibble} (h : s.i.toNat + (x.toNat + 1) ≤ 4096) {j : Nibble}
    (hj : j.toNat ≤ x.toNat) :
    (s.mem.writeList s.i.toNat (firstRegs s x)).read (s.i.toNat + j.toNat) = s.reg j := by
  rw [read_firstRegs h, if_pos (by omega), Nat.add_sub_cancel_left, BitVec.ofNat_toNat, BitVec.setWidth_eq]

/-- The 16-bit address I + j is the plain sum where that fits in 16 bits. -/
theorem toNat_add_setWidth_nibble {a : Word} {j : Nibble} (h : a.toNat + j.toNat < 65536) :
    (a + j.setWidth 16).toNat = a.toNat + j.toNat := by
  rw [BitVec.toNat_add, BitVec.toNat_setWidth_of_le (by decide), Nat.mod_eq_of_lt h]

/-- Settles O40: LD [I],Vx leaves V[j] at I + j and V[j + 1] at I + j + 1, the two bytes a fetch at I + j reads. -/
theorem storedBytesAreFetched : Obligations.StoredBytesAreFetched := by
  unfold Obligations.StoredBytesAreFetched
  intro s x j k hx hj hk
  have hfit : s.i.toNat + (x.toNat + 1) ≤ 4096 := by omega
  have haddr : (s.i + j.setWidth 16).toNat = s.i.toNat + j.toNat := toNat_add_setWidth_nibble (by omega)
  refine ⟨_, exec_store_ok x hfit, ?_⟩
  rw [State.fetchWord_setPc, State.setI_mem, State.setMem_mem, haddr, Nat.add_assoc, ← hk,
    read_firstRegs_add hfit (by omega), read_firstRegs_add hfit (by omega)]

end Sys2Proof.Machine

/-! ## The decoder and the encoder are inverse, and agree with the opcode map -/

namespace Sys2Proof

open Laws

/-! ### The dispatch of the decoder (30_encoding.md R94) -/

theorem nibble_cases (a : Nibble) :
    a = 0x0#4 ∨ a = 0x1#4 ∨ a = 0x2#4 ∨ a = 0x3#4 ∨ a = 0x4#4 ∨ a = 0x5#4 ∨ a = 0x6#4 ∨ a = 0x7#4 ∨
    a = 0x8#4 ∨ a = 0x9#4 ∨ a = 0xA#4 ∨ a = 0xB#4 ∨ a = 0xC#4 ∨ a = 0xD#4 ∨ a = 0xE#4 ∨ a = 0xF#4 := by
  revert a
  decide

/-- What the decoder answers, family by family: the 16 values of `op`. -/
theorem decodeWord_cases (w : Word) :
    (opField w = 0x0#4 ∧ decodeWord w = decodeFamily0 w) ∨
    (opField w = 0x1#4 ∧ decodeWord w = .ok (.jp (nnnField w))) ∨
    (opField w = 0x2#4 ∧ decodeWord w = .ok (.call (nnnField w))) ∨
    (opField w = 0x3#4 ∧ decodeWord w = .ok (.seImm (xField w) (kkField w))) ∨
    (opField w = 0x4#4 ∧ decodeWord w = .ok (.sneImm (xField w) (kkField w))) ∨
    (opField w = 0x5#4 ∧ decodeWord w =
      if nField w = 0#4 then .ok (.seReg (xField w) (yField w)) else .error (.unknownInstruction w)) ∨
    (opField w = 0x6#4 ∧ decodeWord w = .ok (.ldImm (xField w) (kkField w))) ∨
    (opField w = 0x7#4 ∧ decodeWord w = .ok (.addImm (xField w) (kkField w))) ∨
    (opField w = 0x8#4 ∧ decodeWord w = decodeFamily8 w) ∨
    (opField w = 0x9#4 ∧ decodeWord w =
      if nField w = 0#4 then .ok (.sneReg (xField w) (yField w)) else .error (.unknownInstruction w)) ∨
    (opField w = 0xA#4 ∧ decodeWord w = .ok (.ldI (nnnField w))) ∨
    (opField w = 0xB#4 ∧ decodeWord w = .ok (.jpV0 (nnnField w))) ∨
    (opField w = 0xC#4 ∧ decodeWord w = .ok (.rnd (xField w) (kkField w))) ∨
    (opField w = 0xD#4 ∧ decodeWord w = .ok (.drw (xField w) (yField w) (nField w))) ∨
    (opField w = 0xE#4 ∧ decodeWord w = decodeFamilyE w) ∨
    (opField w = 0xF#4 ∧ decodeWord w = decodeFamilyF w) := by
  rcases nibble_cases (opField w) with h | h | h | h | h | h | h | h | h | h | h | h | h | h | h | h <;>
    simp [decodeWord, h]

/-! ### Decode of encode (R93) -/

/-- The decoder reads back every operand: the fields of an encoded word are the digits it was put together from. -/
theorem decodeWord_encode (i : Instr) : decodeWord (encode i) = .ok i := by
  cases i with
  | cls | ret => rfl
  | jp | call | ldI | jpV0 => simp [encode, decodeWord, fields_nnn]
  | seImm | sneImm | ldImm | addImm | rnd => simp [encode, decodeWord, fields_xkk]
  | seReg | sneReg | drw => simp [encode, decodeWord, fields_xyn]
  | ldReg | orReg | andReg | xorReg | addReg | subReg | shr | subn | shl =>
    simp [encode, decodeWord, decodeFamily8, fields_xyn]
  | skp | sknp => simp [encode, decodeWord, decodeFamilyE, fields_xkk]
  | ldVxDT | ldVxK | ldDTVx | ldSTVx | addI | ldF | ldB | store | load =>
    simp [encode, decodeWord, decodeFamilyF, fields_xkk]

/-- A word laid out high byte first is put together again before it is decoded (20_memory.md R62). -/
theorem decodeBytes_wordBytes {w : Word} {i : Instr} (h : decodeWord w = .ok i) (rest : List Byte) :
    decodeBytes (wordBytes w ++ rest) = .ok (i, rest) := by
  simp only [wordBytes, List.cons_append, List.nil_append, decodeBytes, Machine.wordBytes_append, h]

/-- Settles O1: an encoded word decodes to its instruction, and its two bytes are that word. -/
theorem decodeOfEncodeIsTheInstruction : Obligations.DecodeOfEncodeIsTheInstruction := by
  unfold Obligations.DecodeOfEncodeIsTheInstruction
  exact fun i rest => decodeBytes_wordBytes (decodeWord_encode i) rest

/-! ### Encode of decode (R99) -/

section
variable {w : Word} {i : Instr} {a : Nibble}

theorem op_nnn_eq_word (hop : opField w = a) : (a ++ nnnField w : BitVec (4 + 12)) = w :=
  hop ▸ (word_eq_op_nnn w).symm

theorem op_x_kk_eq_word {kk : Byte} (hop : opField w = a) (hkk : (kkField w).toNat = kk.toNat) :
    (a ++ xField w ++ kk : BitVec (4 + 4 + 8)) = w :=
  hop ▸ BitVec.eq_of_toNat_eq hkk ▸ (word_eq_op_x_kk w).symm

theorem op_x_y_n_eq_word {n : Nibble} (hop : opField w = a) (hn : (nField w).toNat = n.toNat) :
    (a ++ xField w ++ yField w ++ n : BitVec (4 + 4 + 4 + 4)) = w :=
  hop ▸ BitVec.eq_of_toNat_eq hn ▸ (word_eq_op_x_y_n w).symm

theorem encode_of_decodeFamily0 (h : decodeFamily0 w = .ok i) : encode i = w := by
  unfold decodeFamily0 at h
  split_ifs at h with hw hw <;> cases h <;> exact hw.symm

theorem encode_of_decodeFamily8 (hop : opField w = 0x8#4) (h : decodeFamily8 w = .ok i) : encode i = w := by
  unfold decodeFamily8 at h
  split at h <;> cases h <;> exact op_x_y_n_eq_word hop ‹_›

theorem encode_of_decodeFamilyE (hop : opField w = 0xE#4) (h : decodeFamilyE w = .ok i) : encode i = w := by
  unfold decodeFamilyE at h
  split at h <;> cases h <;> exact op_x_kk_eq_word hop ‹_›

theorem encode_of_decodeFamilyF (hop : opField w = 0xF#4) (h : decodeFamilyF w = .ok i) : encode i = w := by
  unfold decodeFamilyF at h
  split at h <;> cases h <;> exact op_x_kk_eq_word hop ‹_›

end

/-- What the decoder has tested and read of a word is the whole word. -/
theorem encode_of_decodeWord {w : Word} {i : Instr} (h : decodeWord w = .ok i) : encode i = w := by
  rcases decodeWord_cases w with ⟨hop, hd⟩ | ⟨hop, hd⟩ | ⟨hop, hd⟩ | ⟨hop, hd⟩ | ⟨hop, hd⟩ | ⟨hop, hd⟩ | ⟨hop, hd⟩ |
    ⟨hop, hd⟩ | ⟨hop, hd⟩ | ⟨hop, hd⟩ | ⟨hop, hd⟩ | ⟨hop, hd⟩ | ⟨hop, hd⟩ | ⟨hop, hd⟩ | ⟨hop, hd⟩ | ⟨hop, hd⟩ <;>
    rw [hd] at h
  · exact encode_of_decodeFamily0 h
  · cases h; exact op_nnn_eq_word hop
  · cases h; exact op_nnn_eq_word hop
  · cases h; exact op_x_kk_eq_word hop rfl
  · cases h; exact op_x_kk_eq_word hop rfl
  · split_ifs at h with hn; cases h; exact op_x_y_n_eq_word hop (congrArg _ hn)
  · cases h; exact op_x_kk_eq_word hop rfl
  · cases h; exact op_x_kk_eq_word hop rfl
  · exact encode_of_decodeFamily8 hop h
  · split_ifs at h with hn; cases h; exact op_x_y_n_eq_word hop (congrArg _ hn)
  · cases h; exact op_nnn_eq_word hop
  · cases h; exact op_nnn_eq_word hop
  · cases h; exact op_x_kk_eq_word hop rfl
  · cases h; exact op_x_y_n_eq_word hop rfl
  · exact encode_of_decodeFamilyE hop h
  · exact encode_of_decodeFamilyF hop h

/-- Settles O2: in each family of the dispatch the tested and the read fields are put together to the word again. -/
theorem encodeOfDecodeIsTheWord : Obligations.EncodeOfDecodeIsTheWord := by
  unfold Obligations.EncodeOfDecodeIsTheWord
  exact fun _ _ => encode_of_decodeWord

/-! ### The opcode map (R95) -/

/-- Two rows with one mnemonic are the same row. -/
theorem opcodeTable_mnemonic_inj {row row' : OpcodeRow} (h : row ∈ opcodeTable) (h' : row' ∈ opcodeTable)
    (hm : row.mnemonic = row'.mnemonic) : row = row' :=
  List.inj_on_of_nodup_map (f := OpcodeRow.mnemonic) (by decide) h h' hm

/-- Two rows that agree on the bits both of them fix are the same row. -/
theorem opcodeTable_disjoint : ∀ row ∈ opcodeTable, ∀ row' ∈ opcodeTable,
    row.mask &&& row'.mask &&& row.pattern = row.mask &&& row'.mask &&& row'.pattern → row = row' := by
  decide

/-- A word matches at most one row: on the bits that two rows it matches both fix, both have the bits of the word. -/
theorem eq_of_matches {w : Word} {row row' : OpcodeRow} (h : row ∈ opcodeTable) (h' : row' ∈ opcodeTable)
    (hw : w &&& row.mask = row.pattern) (hw' : w &&& row'.mask = row'.pattern) : row = row' := by
  refine opcodeTable_disjoint row h row' h' ?_
  rw [← hw, ← hw']
  ext k hk
  simp only [BitVec.getElem_and]
  grind

/-- Every instruction has its row, and its encoding matches it. -/
theorem fixedBits (i : Instr) : FixedBits.Statement i := by
  cases i
  exacts [FixedBits.cls, FixedBits.ret, FixedBits.jp _, FixedBits.call _, FixedBits.seImm _ _, FixedBits.sneImm _ _,
    FixedBits.seReg _ _, FixedBits.ldImm _ _, FixedBits.addImm _ _, FixedBits.ldReg _ _, FixedBits.orReg _ _,
    FixedBits.andReg _ _, FixedBits.xorReg _ _, FixedBits.addReg _ _, FixedBits.subReg _ _, FixedBits.shr _ _,
    FixedBits.subn _ _, FixedBits.shl _ _, FixedBits.sneReg _ _, FixedBits.ldI _, FixedBits.jpV0 _,
    FixedBits.rnd _ _, FixedBits.drw _ _ _, FixedBits.skp _, FixedBits.sknp _, FixedBits.ldVxDT _, FixedBits.ldVxK _,
    FixedBits.ldDTVx _, FixedBits.ldSTVx _, FixedBits.addI _, FixedBits.ldF _, FixedBits.ldB _, FixedBits.store _,
    FixedBits.load _]

/-- A row of the map that has the mnemonic of an instruction is matched by its encoding. -/
theorem encode_and_mask {i : Instr} {row : OpcodeRow} (h : row ∈ opcodeTable) (hm : i.mnemonic = row.mnemonic) :
    encode i &&& row.mask = row.pattern := by
  obtain ⟨row', h', hm', hw⟩ := fixedBits i
  rwa [opcodeTable_mnemonic_inj h h' (hm.symm.trans hm'.symm)]

/-- A row that the encoding of an instruction matches has the mnemonic of that instruction. -/
theorem mnemonic_eq_of_encode_and_mask {i : Instr} {row : OpcodeRow} (h : row ∈ opcodeTable)
    (hw : encode i &&& row.mask = row.pattern) : i.mnemonic = row.mnemonic := by
  obtain ⟨row', h', hm', hw'⟩ := fixedBits i
  rw [← hm', eq_of_matches h h' hw hw']

/-- What each row fixes of a word: all of it, `op`, `op` and `n`, or `op` and `kk`. -/
theorem opcodeTable_fixed_fields {row : OpcodeRow} (h : row ∈ opcodeTable) :
    (row.mask = 0xFFFF#16 ∧ row.pattern ∈ [0x00E0#16, 0x00EE#16]) ∨
    (row.mask = 0xF000#16 ∧
      opField row.pattern ∈ [0x1#4, 0x2#4, 0x3#4, 0x4#4, 0x6#4, 0x7#4, 0xA#4, 0xB#4, 0xC#4, 0xD#4]) ∨
    (row.mask = 0xF00F#16 ∧ (nField row.pattern = 0x0#4 ∧ opField row.pattern ∈ [0x5#4, 0x9#4] ∨
      opField row.pattern = 0x8#4 ∧
        nField row.pattern ∈ [0x0#4, 0x1#4, 0x2#4, 0x3#4, 0x4#4, 0x5#4, 0x6#4, 0x7#4, 0xE#4])) ∨
    (row.mask = 0xF0FF#16 ∧ (opField row.pattern = 0xE#4 ∧ kkField row.pattern ∈ [0x9E#8, 0xA1#8] ∨
      opField row.pattern = 0xF#4 ∧
        kkField row.pattern ∈ [0x07#8, 0x0A#8, 0x15#8, 0x18#8, 0x1E#8, 0x29#8, 0x33#8, 0x55#8, 0x65#8])) := by
  revert row
  decide

/-- A row's pattern has the bits of a word that matches it, in every field that the row's mask keeps whole. -/
theorem extractLsb'_of_matches {w mask pattern : Word} {start len : Nat} (hw : w &&& mask = pattern)
    (hmask : mask.extractLsb' start len = BitVec.allOnes len) :
    pattern.extractLsb' start len = w.extractLsb' start len := by
  rw [← hw, BitVec.extractLsb'_and, hmask, BitVec.and_allOnes]

/-- A word that matches a row decodes: the fields the row fixes are all that the decoder tests. -/
theorem decodes_of_matches {w : Word} {row : OpcodeRow} (hrow : row ∈ opcodeTable)
    (hw : w &&& row.mask = row.pattern) : ∃ i, decodeWord w = .ok i := by
  obtain ⟨_, pattern, _⟩ := row
  dsimp only at hw
  rcases opcodeTable_fixed_fields hrow with ⟨rfl, h⟩ | ⟨rfl, h⟩ | ⟨rfl, h⟩ | ⟨rfl, h⟩
  · rw [and_FFFF] at hw
    subst hw
    simp only [List.mem_cons, List.not_mem_nil, or_false] at h
    rcases h with rfl | rfl <;> exact ⟨_, rfl⟩
  · have hop : opField pattern = opField w := extractLsb'_of_matches hw rfl
    rw [hop] at h
    simp only [List.mem_cons, List.not_mem_nil, or_false] at h
    rcases h with h | h | h | h | h | h | h | h | h | h <;> simp [decodeWord, h]
  · have hop : opField pattern = opField w := extractLsb'_of_matches hw rfl
    have hn : nField pattern = nField w := extractLsb'_of_matches hw rfl
    rw [hop, hn] at h
    simp only [List.mem_cons, List.not_mem_nil, or_false] at h
    rcases h with ⟨hn, hop | hop⟩ | ⟨hop, hn | hn | hn | hn | hn | hn | hn | hn | hn⟩ <;>
      simp [decodeWord, decodeFamily8, hop, hn]
  · have hop : opField pattern = opField w := extractLsb'_of_matches hw rfl
    have hkk : kkField pattern = kkField w := extractLsb'_of_matches hw rfl
    rw [hop, hkk] at h
    simp only [List.mem_cons, List.not_mem_nil, or_false] at h
    rcases h with ⟨hop, hkk | hkk⟩ | ⟨hop, hkk | hkk | hkk | hkk | hkk | hkk | hkk | hkk | hkk⟩ <;>
      simp [decodeWord, decodeFamilyE, decodeFamilyF, hop, hkk]

/-- Settles O3: a word that matches a row decodes, and it is then the encoding of an instruction, which matches the row
of its mnemonic and no other. -/
theorem decodeAgreesWithOpcodeTable : Obligations.DecodeAgreesWithOpcodeTable := by
  unfold Obligations.DecodeAgreesWithOpcodeTable
  refine ⟨fun w row hrow => ⟨fun hw => ?_, ?_⟩, fun w row row' h h' hw hw' => eq_of_matches h h' hw hw'⟩
  · obtain ⟨i, hi⟩ := decodes_of_matches hrow hw
    exact ⟨i, hi, mnemonic_eq_of_encode_and_mask hrow (encode_of_decodeWord hi ▸ hw)⟩
  · rintro ⟨i, hi, hm⟩
    exact encode_of_decodeWord hi ▸ encode_and_mask hrow hm

/-! ### The unknown words (R98) -/

theorem eq_op_nnn_iff {w : Word} {a : Nibble} (hop : opField w = a) (b : Addr12) :
    w = (a ++ b : BitVec (4 + 12)) ↔ nnnField w = b :=
  ⟨fun h => h ▸ (fields_nnn _ _).2, fun h => h ▸ (op_nnn_eq_word hop).symm⟩

theorem decodeFamily0_unknown_iff {w : Word} (hop : opField w = 0x0#4) :
    decodeFamily0 w = .error (.unknownInstruction w) ↔ nnnField w ≠ 0x0E0#12 ∧ nnnField w ≠ 0x0EE#12 := by
  have hcls : w = 0x00E0#16 ↔ nnnField w = 0x0E0#12 := eq_op_nnn_iff hop 0x0E0#12
  have hret : w = 0x00EE#16 ↔ nnnField w = 0x0EE#12 := eq_op_nnn_iff hop 0x0EE#12
  rw [decodeFamily0, Ne, Ne, ← hcls, ← hret]
  split_ifs with h h'
  · simp [h]
  · simp [h']
  · simp [h, h']

theorem decodeFamily8_unknown_iff (w : Word) :
    decodeFamily8 w = .error (.unknownInstruction w) ↔
      nField w ∈ [0x8#4, 0x9#4, 0xA#4, 0xB#4, 0xC#4, 0xD#4, 0xF#4] := by
  rcases nibble_cases (nField w) with h | h | h | h | h | h | h | h | h | h | h | h | h | h | h | h <;>
    simp [decodeFamily8, h]

theorem decodeFamilyE_unknown_iff (w : Word) :
    decodeFamilyE w = .error (.unknownInstruction w) ↔ kkField w ∉ [0x9E#8, 0xA1#8] := by
  simp only [decodeFamilyE, List.mem_cons, List.not_mem_nil, or_false, ← BitVec.toNat_inj]
  split <;> simp_all

theorem decodeFamilyF_unknown_iff (w : Word) :
    decodeFamilyF w = .error (.unknownInstruction w) ↔
      kkField w ∉ [0x07#8, 0x0A#8, 0x15#8, 0x18#8, 0x1E#8, 0x29#8, 0x33#8, 0x55#8, 0x65#8] := by
  simp only [decodeFamilyF, List.mem_cons, List.not_mem_nil, or_false, ← BitVec.toNat_inj]
  split <;> simp_all

/-- Settles O4: the table of unknown words, family by family. -/
theorem unknownWordsAreTheListedOnes : Obligations.UnknownWordsAreTheListedOnes := by
  unfold Obligations.UnknownWordsAreTheListedOnes
  intro w
  rcases decodeWord_cases w with ⟨hop, hd⟩ | ⟨hop, hd⟩ | ⟨hop, hd⟩ | ⟨hop, hd⟩ | ⟨hop, hd⟩ | ⟨hop, hd⟩ | ⟨hop, hd⟩ |
    ⟨hop, hd⟩ | ⟨hop, hd⟩ | ⟨hop, hd⟩ | ⟨hop, hd⟩ | ⟨hop, hd⟩ | ⟨hop, hd⟩ | ⟨hop, hd⟩ | ⟨hop, hd⟩ | ⟨hop, hd⟩
  case inl => simp [hd, hop, decodeFamily0_unknown_iff hop]
  all_goals simp [hd, hop, decodeFamily8_unknown_iff, decodeFamilyE_unknown_iff, decodeFamilyF_unknown_iff]

/-- Settles O5: nine closed evaluations of the decoder. -/
theorem sampleWordsDecode : Obligations.SampleWordsDecode := by
  unfold Obligations.SampleWordsDecode
  decide

end Sys2Proof

/-! ## Control transfer (40_control_flow.md)

JP and JP V0, CALL and RET, the register skips, and the jump to itself. -/

namespace Sys2Proof.Machine

/-! ### Steps and runs (60_exceptions.md R200) -/

/-- A running core inside memory executes the instruction that its fetched word decodes to. -/
theorem step_eq_exec {s : State} {i : Instr} (hfault : s.fault = none) (hpc : s.pc.toNat ≤ 0xFFE)
    (hd : decodeWord s.fetchWord = .ok i) : step s = exec i s := by
  have hrun : s.halted = false := by rw [State.halted, hfault]; rfl
  rw [step, hrun, if_neg Bool.false_ne_true, inRange_ok (.inr (by omega))]
  simp only [runWord, hd]

/-- A state that one step keeps is kept by any number of steps. -/
theorem run_eq_of_step_eq {M : Host.Core} {s : M.State} (h : M.step s = .next s) (n : Nat) : M.run n s = .next s := by
  induction n with
  | zero => rfl
  | succ n ih => rw [Host.Core.run, h]; exact ih

/-! ### Jumps (R121, R127) -/

theorem addrOperand_toNat (nnn : Addr12) : (addrOperand nnn).toNat = nnn.toNat :=
  BitVec.toNat_setWidth_of_le (by decide)

/-- The largest sum, 0xFFF + 0xFF, fits in 16 bits. -/
theorem jumpTarget_toNat (nnn : Addr12) (b : Byte) :
    (addrOperand nnn + byteOperand b).toNat = nnn.toNat + b.toNat := by
  have hn := nnn.isLt
  have hb := b.isLt
  have hbyte : (byteOperand b).toNat = b.toNat := BitVec.toNat_setWidth_of_le (by decide)
  rw [BitVec.toNat_add, addrOperand_toNat, hbyte]
  omega

/-- The word of a jump, as 70_reset_and_hazards.md R252 writes it. -/
theorem encode_jp_eq_or (nnn : Addr12) : encode (.jp nnn) = 0x1000#16 ||| nnn.setWidth 16 := rfl

/-- A jump to its own address leaves the state as it is: PC is all that it writes. -/
theorem exec_jp_self {s : State} {a : Addr12} (h : addrOperand a = s.pc) : exec (.jp a) s = .next s := by
  change Host.Outcome.next (s.advance.setPc (addrOperand a)) = .next s
  rw [h]
  rfl

/-- Settles O20: the word decodes to the jump, the jump writes to PC what PC holds, and a state that one step keeps is
kept by every run. -/
theorem jumpToItselfHoldsTheState : Obligations.JumpToItselfHoldsTheState := by
  unfold Obligations.JumpToItselfHoldsTheState
  intro s a n hfault hpc ha hword
  have hd : decodeWord s.fetchWord = .ok (.jp a) := by rw [hword, ← encode_jp_eq_or, decodeWord_encode]
  have hself : addrOperand a = s.pc := BitVec.eq_of_toNat_eq ((addrOperand_toNat a).trans ha.symm)
  exact run_eq_of_step_eq ((step_eq_exec hfault hpc hd).trans (exec_jp_self hself)) n

/-- Settles O18: JP meets no fault, and its completion sets PC alone. -/
theorem jumpSetsPcToTheOperand : Obligations.JumpSetsPcToTheOperand := by
  unfold Obligations.JumpSetsPcToTheOperand
  exact fun s nnn => ⟨_, exec_eq_completed rfl, addrOperand_toNat nnn, completed_frame (.jp nnn) s⟩

/-- Settles O19: JP V0 meets no fault, and the sum it sets PC to does not wrap. -/
theorem jumpWithOffsetAddsV0 : Obligations.JumpWithOffsetAddsV0 := by
  unfold Obligations.JumpWithOffsetAddsV0
  exact fun s nnn => ⟨_, exec_eq_completed rfl, jumpTarget_toNat nnn _, completed_frame (.jpV0 nnn) s⟩

/-! ### CALL and RET (R122, R120) -/

theorem completed_call_stackAt (s : State) (nnn : Addr12) (j : Nat) :
    (completed (.call nnn) s).stackAt j = if j = s.sp.val ∧ j < 16 then s.pc + 2#16 else s.stackAt j :=
  State.stackAt_push s.advance _ j

/-- With room on the stack the entry at the old SP is the return address. -/
theorem completed_call_stackAt_sp {s : State} (nnn : Addr12) (h : s.sp.val < 16) :
    (completed (.call nnn) s).stackAt s.sp.val = s.pc + 2#16 := by
  rw [completed_call_stackAt, if_pos ⟨rfl, h⟩]

theorem completed_call_sp_val {s : State} (nnn : Addr12) (h : s.sp.val < 16) :
    (completed (.call nnn) s).sp.val = s.sp.val + 1 :=
  State.push_sp_val s.advance s.advance.pc h.ne

/-- With room on the stack CALL completes. -/
theorem exec_call_eq_completed {s : State} (nnn : Addr12) (h : s.sp.val < 16) :
    exec (.call nnn) s = .next (completed (.call nnn) s) :=
  exec_call_ok nnn h.ne

/-- With an address on the stack RET completes. -/
theorem exec_ret_eq_completed {s : State} (h : 0 < s.sp.val) : exec .ret s = .next (completed .ret s) :=
  exec_ret_ok h.ne'

/-- RET takes back the SP of the CALL. -/
theorem completed_ret_sp_of_call {s v : State} {nnn : Addr12} (h : v.sp = (completed (.call nnn) s).sp) :
    (completed .ret v).sp = s.sp := by
  change v.sp - 1 = s.sp
  rw [h]
  exact add_sub_cancel_right s.sp 1

/-- Settles O24: the SP that CALL leaves is one above the entry it wrote, so RET takes PC from that entry and goes back
to the SP before the CALL. -/
theorem returnGoesBehindTheMatchingCall : Obligations.ReturnGoesBehindTheMatchingCall := by
  unfold Obligations.ReturnGoesBehindTheMatchingCall
  intro s nnn h
  refine ⟨_, exec_call_eq_completed nnn h, fun v hsp hentry => ?_⟩
  have hval : v.sp.val = s.sp.val + 1 := (congrArg Fin.val hsp).trans (completed_call_sp_val nnn h)
  refine ⟨_, exec_ret_eq_completed (by omega), ?_, completed_ret_sp_of_call hsp, completed_frame .ret v⟩
  change v.stackAt (v.sp.val - 1) = s.pc + 2#16
  rw [hval, Nat.add_sub_cancel, hentry, completed_call_stackAt_sp nnn h]

/-- Settles O21: CALL completes, and its push writes the entry at the old SP and no other. -/
theorem callPushesTheReturnAddress : Obligations.CallPushesTheReturnAddress := by
  unfold Obligations.CallPushesTheReturnAddress
  intro s nnn h
  refine ⟨_, exec_call_eq_completed nnn h, completed_call_sp_val nnn h, completed_call_stackAt_sp nnn h,
    fun j hj => ?_, addrOperand_toNat nnn, completed_frame (.call nnn) s⟩
  rw [completed_call_stackAt, if_neg fun hold => hj hold.1]

/-- Settles O22: RET completes, and of the stack it changes SP alone. -/
theorem returnPopsTheAddress : Obligations.ReturnPopsTheAddress := by
  unfold Obligations.ReturnPopsTheAddress
  exact fun s h =>
    ⟨_, exec_ret_eq_completed h, State.pop_sp_val s.advance h.ne', rfl, completed_frame .ret s⟩

/-! ### Skips (R123 to R126) -/

/-- The two advances of a skip that is taken add up to 4. -/
theorem State.skipIf_pc_eq (s : State) (c : Bool) :
    (s.skipIf c).pc = if c then s.pc + 4#16 else s.pc + 2#16 := by
  rw [State.skipIf_pc, BitVec.add_assoc]
  rfl

theorem State.skipIf_beq_pc (s : State) (a b : Byte) :
    (s.skipIf (a == b)).pc = if a = b then s.pc + 4#16 else s.pc + 2#16 := by
  simp only [State.skipIf_pc_eq, beq_iff_eq]

theorem State.skipIf_bne_pc (s : State) (a b : Byte) :
    (s.skipIf (a != b)).pc = if a = b then s.pc + 2#16 else s.pc + 4#16 := by
  simp only [State.skipIf_pc_eq, bne_iff_ne, ite_not]

/-- Settles O25: both skips complete, each with its own condition on V[x] and kk. -/
theorem immediateSkips : Obligations.ImmediateSkips := by
  unfold Obligations.ImmediateSkips
  exact fun s x kk =>
    ⟨⟨_, exec_eq_completed rfl, s.skipIf_beq_pc _ _, completed_frame (.seImm x kk) s⟩,
      ⟨_, exec_eq_completed rfl, s.skipIf_bne_pc _ _, completed_frame (.sneImm x kk) s⟩⟩

/-- Settles O26: both skips complete, each with its own condition on V[x] and V[y]. -/
theorem registerSkips : Obligations.RegisterSkips := by
  unfold Obligations.RegisterSkips
  exact fun s x y =>
    ⟨⟨_, exec_eq_completed rfl, s.skipIf_beq_pc _ _, completed_frame (.seReg x y) s⟩,
      ⟨_, exec_eq_completed rfl, s.skipIf_bne_pc _ _, completed_frame (.sneReg x y) s⟩⟩

end Sys2Proof.Machine

/-! ## Registers and arithmetic (41_register_alu.md)

The random input is RND's alone; loads, arithmetic, logic, shifts and RND, from what their two kinds of register write
do: into V[x], or into V[x] and then VF. -/

namespace Sys2Proof.Machine

/-! ### The random input (60_exceptions.md R201) -/

theorem faultOf_setRndIn (i : Instr) (s : State) (b : Option Byte) : faultOf i (s.setRndIn b) = faultOf i s := by
  cases i <;> rfl

theorem State.skipIf_setRndIn (s : State) (b : Option Byte) (c : Bool) :
    (s.setRndIn b).skipIf c = (s.skipIf c).setRndIn b := by
  cases c <;> rfl

theorem completed_setRndIn {i : Instr} (hi : ∀ x kk, i ≠ .rnd x kk) (s : State) (b : Option Byte) :
    completed i (s.setRndIn b) = (completed i s).setRndIn b := by
  cases i with
  | rnd x kk => exact absurd rfl (hi x kk)
  | seImm | sneImm | seReg | sneReg | skp | sknp => exact State.skipIf_setRndIn s b _
  | ldVxK x =>
    have hkey : (s.setRndIn b).releasedKey = s.releasedKey := rfl
    cases hk : s.releasedKey with
    | some k => rw [completed_ldVxK_some x hk, completed_ldVxK_some x (hkey.trans hk)]; rfl
    | none => rw [completed_ldVxK_none x hk, completed_ldVxK_none x (hkey.trans hk)]; rfl
  | _ => rfl

/-- Settles O16: neither the fault an instruction meets nor, RND apart, the state it completes in depends on the random
input. -/
theorem onlyRndUsesTheRandomByte : Obligations.OnlyRndUsesTheRandomByte := by
  unfold Obligations.OnlyRndUsesTheRandomByte
  intro i s t b hi h
  have hfault := faultOf_setRndIn i s b
  obtain ⟨hf, rfl⟩ | ⟨f, hf, rfl⟩ := exec_cases h
  · rw [exec_eq_completed (hfault.trans hf), completed_setRndIn hi]
  · exact exec_eq_setFault (hfault.trans hf)

/-! ### The two kinds of register write (R152) -/

/-- An instruction that only writes V[x]. -/
theorem State.advance_setReg_effect (s : State) (x : Nibble) (a : Byte) :
    (s.advance.setReg x a).reg x = a ∧ (∀ r, r ≠ x → (s.advance.setReg x a).reg r = s.reg r) ∧
      (s.advance.setReg x a).pc = s.pc + 2#16 ∧ Frame [.pc, .regs] s (s.advance.setReg x a) :=
  ⟨State.reg_setReg_self _ x a, fun _ hr => State.reg_setReg_of_ne _ a hr, rfl,
    (Frame.refl.advance (by decide)).setReg x a (by decide)⟩

/-- An instruction that writes V[x] and then VF: with x = F the flag stands (decision D8). -/
theorem State.advance_setRegAndFlag_effect (s : State) (x : Nibble) (a f : Byte) :
    (s.advance.setRegAndFlag x a f).reg flagReg = f ∧
      (x ≠ flagReg → (s.advance.setRegAndFlag x a f).reg x = a) ∧
      (∀ r, r ≠ x → r ≠ flagReg → (s.advance.setRegAndFlag x a f).reg r = s.reg r) ∧
      (s.advance.setRegAndFlag x a f).pc = s.pc + 2#16 ∧
      Frame [.pc, .regs] s (s.advance.setRegAndFlag x a f) := by
  refine ⟨?_, fun hx => ?_, fun r hr hf => State.reg_setRegAndFlag_of_ne _ a f ⟨hr, hf⟩, rfl,
    (Frame.refl.advance (by decide)).setRegAndFlag x a f (by decide)⟩
  · rw [State.reg_setRegAndFlag, if_pos rfl]
  · rw [State.reg_setRegAndFlag, if_neg hx, if_pos rfl]

/-! ### Results and flags as numbers -/

theorem toNat_sub_byte (a b : Byte) : (a - b).toNat = (a.toNat + 256 - b.toNat) % 256 := by
  have := b.isLt
  rw [BitVec.toNat_sub]
  omega

theorem flagByte_toNat (c : Bool) : (flagByte c).toNat = c.toNat := by
  cases c <;> rfl

theorem lowBitFlag_toNat (b : Byte) : (lowBitFlag b).toNat = b.toNat % 2 := by
  rw [lowBitFlag, flagByte_toNat, BitVec.getLsbD, Nat.toNat_testBit]
  omega

/-- A byte has no bit above the seventh. -/
theorem highBitFlag_toNat (b : Byte) : (highBitFlag b).toNat = b.toNat / 128 := by
  have := b.isLt
  rw [highBitFlag, flagByte_toNat, BitVec.getLsbD, Nat.toNat_testBit]
  omega

theorem toNat_shiftRight_one (b : Byte) : (b >>> 1).toNat = b.toNat / 2 := by
  rw [BitVec.toNat_ushiftRight, Nat.shiftRight_one]

theorem toNat_shiftLeft_one (b : Byte) : (b <<< 1).toNat = b.toNat * 2 % 256 := by
  rw [BitVec.toNat_shiftLeft, Nat.shiftLeft_eq]

/-! ### Writes into V[x] alone (R140 to R142) -/

/-- Settles O27: both loads complete with a write into V[x] alone. -/
theorem loadsWriteOneRegister : Obligations.LoadsWriteOneRegister := by
  unfold Obligations.LoadsWriteOneRegister
  exact fun s x y kk =>
    ⟨⟨_, exec_eq_completed rfl, s.advance_setReg_effect x kk⟩,
      ⟨_, exec_eq_completed rfl, s.advance_setReg_effect x (s.reg y)⟩⟩

/-- Settles O28: the write into V[x] is the sum of two bytes, which wraps. -/
theorem addImmediateWrapsWithoutFlag : Obligations.AddImmediateWrapsWithoutFlag := by
  unfold Obligations.AddImmediateWrapsWithoutFlag
  intro s x kk
  obtain ⟨hres, hrest⟩ := s.advance_setReg_effect x (s.reg x + kk)
  exact ⟨_, exec_eq_completed rfl, (congrArg BitVec.toNat hres).trans (BitVec.toNat_add _ _), hrest⟩

/-! ### Writes into V[x] and then VF (R143 to R150) -/

/-- Settles O29: each of the three writes its result and then the flag 0. -/
theorem logicClearsTheFlag : Obligations.LogicClearsTheFlag := by
  unfold Obligations.LogicClearsTheFlag
  intro s x y
  obtain ⟨horFlag, horRes, horRest⟩ := s.advance_setRegAndFlag_effect x (s.reg x ||| s.reg y) 0#8
  obtain ⟨handFlag, handRes, handRest⟩ := s.advance_setRegAndFlag_effect x (s.reg x &&& s.reg y) 0#8
  obtain ⟨hxorFlag, hxorRes, hxorRest⟩ := s.advance_setRegAndFlag_effect x (s.reg x ^^^ s.reg y) 0#8
  exact ⟨⟨_, exec_eq_completed rfl, horRes, horFlag, horRest⟩,
    ⟨_, exec_eq_completed rfl, handRes, handFlag, handRest⟩,
    ⟨_, exec_eq_completed rfl, hxorRes, hxorFlag, hxorRest⟩⟩

/-- Settles O30: the sum wraps, and the flag, written last, is its carry. -/
theorem addSetsCarry : Obligations.AddSetsCarry := by
  unfold Obligations.AddSetsCarry
  intro s x y
  obtain ⟨hflag, hres, hrest⟩ :=
    s.advance_setRegAndFlag_effect x (s.reg x + s.reg y) (carryFlag (s.reg x) (s.reg y))
  exact ⟨_, exec_eq_completed rfl, hflag.trans (carryFlag_eq _ _),
    fun hx => (congrArg BitVec.toNat (hres hx)).trans (BitVec.toNat_add _ _), hrest⟩

/-- Settles O31: both write a difference and then its flag, from the operands before the write; SUBN has them
exchanged. -/
theorem subtractSetsNoBorrow : Obligations.SubtractSetsNoBorrow := by
  unfold Obligations.SubtractSetsNoBorrow
  intro s x y
  obtain ⟨hsubFlag, hsubRes, hsubRest⟩ :=
    s.advance_setRegAndFlag_effect x (s.reg x - s.reg y) (noBorrowFlag (s.reg x) (s.reg y))
  obtain ⟨hsubnFlag, hsubnRes, hsubnRest⟩ :=
    s.advance_setRegAndFlag_effect x (s.reg y - s.reg x) (noBorrowFlag (s.reg y) (s.reg x))
  exact
    ⟨⟨_, exec_eq_completed rfl, hsubFlag.trans (noBorrowFlag_eq _ _),
        fun hx => (congrArg BitVec.toNat (hsubRes hx)).trans (toNat_sub_byte _ _), hsubRest⟩,
      ⟨_, exec_eq_completed rfl, hsubnFlag.trans (noBorrowFlag_eq _ _),
        fun hx => (congrArg BitVec.toNat (hsubnRes hx)).trans (toNat_sub_byte _ _), hsubnRest⟩⟩

/-- Settles O32: both write V[y] shifted by one and then the bit that fell out. -/
theorem shiftsMoveVyIntoVx : Obligations.ShiftsMoveVyIntoVx := by
  unfold Obligations.ShiftsMoveVyIntoVx
  intro s x y
  obtain ⟨hshrFlag, hshrRes, hshrRest⟩ :=
    s.advance_setRegAndFlag_effect x (s.reg y >>> 1) (lowBitFlag (s.reg y))
  obtain ⟨hshlFlag, hshlRes, hshlRest⟩ :=
    s.advance_setRegAndFlag_effect x (s.reg y <<< 1) (highBitFlag (s.reg y))
  exact
    ⟨⟨_, exec_eq_completed rfl, (congrArg BitVec.toNat hshrFlag).trans (lowBitFlag_toNat _),
        fun hx => (congrArg BitVec.toNat (hshrRes hx)).trans (toNat_shiftRight_one _), hshrRest⟩,
      ⟨_, exec_eq_completed rfl, (congrArg BitVec.toNat hshlFlag).trans (highBitFlag_toNat _),
        fun hx => (congrArg BitVec.toNat (hshlRes hx)).trans (toNat_shiftLeft_one _), hshlRest⟩⟩

/-! ### RND (R151) -/

theorem State.rndByte_of_rndIn {s : State} {c : Byte} (h : s.rndIn = some c) : s.rndByte = c := by
  rw [State.rndByte, h]

/-- Settles O33: the byte is the one on the input, if any, else the next free one; RND writes it, masked, into V[x]
alone. -/
theorem randomByteIsMasked : Obligations.RandomByteIsMasked := by
  unfold Obligations.RandomByteIsMasked
  intro s x kk
  have hres : (completed (.rnd x kk) s).reg x = s.rndByte &&& kk := State.reg_setReg_self _ x _
  have hmask : s.rndByte &&& kk &&& ~~~kk = 0#8 := by simp [BitVec.and_assoc]
  have hpc : (completed (.rnd x kk) s).pc = s.pc + 2#16 := congrArg (· + 2#16) s.useRnd_pc
  exact ⟨_, s.rndByte, exec_eq_completed rfl, fun _ hc => State.rndByte_of_rndIn hc, hres,
    (congrArg (· &&& ~~~kk) hres).trans hmask,
    fun _ hr => completed_reg (.rnd x kk) s (by simpa [mayWrite] using hr), hpc, completed_frame (.rnd x kk) s⟩

end Sys2Proof.Machine


/-! ## Index register and memory (42_index_memory.md)

LD I, ADD I and LD F set I to a number; LD B, LD [I] and LD Vx,[I] complete where the access lies in memory and else
record the fault of R164. -/

namespace Sys2Proof.Machine

/-- A frame allows more than it has to: only which pieces it lists counts, not their order. -/
theorem Frame.mono {ps qs : List Part} {s t : State} (h : Frame ps s t) (hsub : ps ⊆ qs) : Frame qs s t :=
  fun p hp => h p fun hin => hp (hsub hin)

/-! ### I as a number (R160 to R162) -/

theorem byteOperand_toNat (b : Byte) : (byteOperand b).toNat = b.toNat :=
  BitVec.toNat_setWidth_of_le (by decide)

/-- The largest glyph address, 0x50 + 5 * 0xFF, fits in 16 bits. -/
theorem glyphAddr_toNat (b : Byte) : (glyphAddr b).toNat = 0x50 + 5 * b.toNat := by
  have hb := b.isLt
  have hfive : (5#16).toNat = 5 := rfl
  have hbase : (BitVec.ofNat 16 Config.fontBase).toNat = 0x50 := rfl
  rw [glyphAddr, BitVec.toNat_add, BitVec.toNat_mul, byteOperand_toNat, hfive, hbase]
  omega

/-- Settles O35: LD I meets no fault, and its completion sets I to the operand, zero-extended. -/
theorem loadIndexImmediate : Obligations.LoadIndexImmediate := by
  unfold Obligations.LoadIndexImmediate
  exact fun s nnn => ⟨_, exec_eq_completed rfl, addrOperand_toNat nnn, rfl, completed_frame (.ldI nnn) s⟩

/-- Settles O36: both meet no fault and set I alone, ADD I to a 16-bit sum, which wraps, and LD F to a glyph address,
which does not. -/
theorem indexArithmetic : Obligations.IndexArithmetic := by
  unfold Obligations.IndexArithmetic
  intro s x
  have hsum : (s.i + byteOperand (s.reg x)).toNat = (s.i.toNat + (s.reg x).toNat) % 65536 := by
    rw [BitVec.toNat_add, byteOperand_toNat]
  exact ⟨⟨_, exec_eq_completed rfl, hsum, rfl, completed_frame (.addI x) s⟩,
    ⟨_, exec_eq_completed rfl, glyphAddr_toNat _, rfl, completed_frame (.ldF x) s⟩⟩

/-! ### An access at I (R164) -/

/-- An access of at least one byte that ends beyond memory faults, and records max(base, 0x1000). -/
theorem accessFault_eq_some {base : Word} {len : Nat} (hlen : 0 < len) (h : 4096 < base.toNat + len) :
    accessFault base len = some (.outOfBounds (BitVec.ofNat 16 (max base.toNat 0x1000))) :=
  if_pos ⟨hlen, by omega⟩

/-- After ascending writes inside memory, the byte at the j-th address is the j-th one written (20_memory.md R63). -/
theorem Memory.read_writeList_add (m : Memory) {a j : Nat} {bs : List Byte} (h : a + bs.length ≤ 4096)
    (hj : j < bs.length) : (m.writeList a bs).read (a + j) = bs[j] := by
  rw [Memory.read_writeList bs m a _ h, dif_pos ⟨by omega, by omega⟩]
  simp only [Nat.add_sub_cancel_left]

/-! ### The decimal digits (R163) -/

/-- Inside memory the three bytes from `a` upward are the digits, each of which fits in a byte. -/
theorem read_decimalDigits_toNat (m : Memory) {a : Nat} (b : Byte) (h : a + 3 ≤ 4096) :
    ((m.writeList a (decimalDigits b)).read a).toNat = b.toNat / 100 ∧
      ((m.writeList a (decimalDigits b)).read (a + 1)).toNat = b.toNat / 10 % 10 ∧
      ((m.writeList a (decimalDigits b)).read (a + 2)).toNat = b.toNat % 10 := by
  have hb := b.isLt
  have digit {j n : Nat} (hj : j < 3) (hd : (decimalDigits b)[j]'hj = BitVec.ofNat 8 n) (hn : n < 256) :
      ((m.writeList a (decimalDigits b)).read (a + j)).toNat = n := by
    rw [m.read_writeList_add h hj, hd, BitVec.toNat_ofNat, Nat.mod_eq_of_lt hn]
  exact ⟨digit (j := 0) (by decide) rfl (by omega), digit (by decide) rfl (by omega),
    digit (by decide) rfl (by omega)⟩

/-- Settles O37: inside memory LD B completes, and stores the digits and no other byte; beyond it LD B faults. -/
theorem decimalDigitsAreStored : Obligations.DecimalDigitsAreStored := by
  unfold Obligations.DecimalDigitsAreStored
  intro s x
  refine ⟨fun hin => ?_, fun hout => exec_eq_setFault (i := .ldB x) (accessFault_eq_some (by decide) (by omega))⟩
  obtain ⟨hhundreds, htens, hunits⟩ := read_decimalDigits_toNat s.mem (a := s.i.toNat) (s.reg x) (by omega)
  exact ⟨_, exec_ldB_ok x (by omega), hhundreds, htens, hunits, fun _ ha => completed_read (.ldB x) s ha, rfl,
    completed_frame (.ldB x) s⟩

/-! ### The registers in memory (R165, R166) -/

/-- Settles O38: inside memory LD [I] completes, and stores V[0] to V[x] and no other byte; beyond it LD [I] faults. -/
theorem registerDump : Obligations.RegisterDump := by
  unfold Obligations.RegisterDump
  intro s x
  refine ⟨fun hin => ?_,
    fun hout => exec_eq_setFault (i := .store x) (accessFault_eq_some (Nat.succ_pos _) (by omega))⟩
  have hfit : s.i.toNat + (x.toNat + 1) ≤ 4096 := by omega
  exact ⟨_, exec_store_ok x hfit, fun _ hr => read_firstRegs_add hfit hr,
    fun _ ha => completed_read (.store x) s ha, advancedI_toNat hfit, rfl,
    (completed_frame (.store x) s).mono (by simp [touches])⟩

theorem completed_load_reg (s : State) (x r : Nibble) :
    (completed (.load x) s).reg r = if r.toNat ≤ x.toNat then s.mem.read (s.i.toNat + r.toNat) else s.reg r :=
  State.reg_loadedRegs s s.advance s.i.toNat x r

/-- Settles O39: inside memory LD Vx,[I] completes, and loads V[0] to V[x] alone; beyond it LD Vx,[I] faults. -/
theorem registerLoad : Obligations.RegisterLoad := by
  unfold Obligations.RegisterLoad
  intro s x
  refine ⟨fun hin => ?_,
    fun hout => exec_eq_setFault (i := .load x) (accessFault_eq_some (Nat.succ_pos _) (by omega))⟩
  have hfit : s.i.toNat + (x.toNat + 1) ≤ 4096 := by omega
  exact ⟨_, exec_load_ok x hfit, fun r hr => (completed_load_reg s x r).trans (if_pos hr),
    fun r hr => (completed_load_reg s x r).trans (if_neg (by omega)), advancedI_toNat hfit, rfl,
    (completed_frame (.load x) s).mono (by simp [touches])⟩

end Sys2Proof.Machine

/-! ## Display (43_display.md)

CLS, and DRW: one draw exclusive-ors the sprite into the screen, so two equal draws undo each other, and the second
collides where the first lit a cell. -/

namespace Sys2Proof.Machine

/-! ### CLS (R180) -/

/-- Settles O41: CLS meets no fault, and the framebuffer it completes with is clear. -/
theorem clearScreen : Obligations.ClearScreen := by
  unfold Obligations.ClearScreen
  exact fun s =>
    ⟨_, exec_eq_completed rfl, fun _ _ _ _ => Framebuffer.cell_clear _ _, rfl, completed_frame .cls s⟩

/-! ### One draw (R182) -/

/-- Settles O43: the access of n bytes at I ends beyond memory, so DRW faults. -/
theorem drawBeyondMemoryFaults : Obligations.DrawBeyondMemoryFaults := by
  unfold Obligations.DrawBeyondMemoryFaults
  exact fun s x y n hn hout => exec_eq_setFault (i := .drw x y n) (accessFault_eq_some hn hout)

theorem flagByte_eq_one_iff {c : Bool} : flagByte c = 1#8 ↔ c = true := by
  cases c <;> decide

theorem flagByte_eq_zero_iff {c : Bool} : flagByte c = 0#8 ↔ ¬ c = true := by
  cases c <;> decide

/-- With all n sprite bytes in memory DRW completes. -/
theorem exec_drw_eq_completed {s : State} (x y : Nibble) {n : Nibble}
    (h : n.toNat = 0 ∨ s.i.toNat + n.toNat ≤ 0x1000) : exec (.drw x y n) s = .next (completed (.drw x y n) s) :=
  exec_drw_ok x y n h

/-- The bit over cell (px, py) of the sprite that DRW Vx, Vy, n draws in a state. -/
def drawnBit (s : State) (x y n : Nibble) (py px : Nat) : Bool :=
  spriteBit s.mem s.i.toNat ((s.reg y).toNat % 32) ((s.reg x).toNat % 64) n.toNat py px

/-- A set bit of the sprite lies on the screen over a cell with this value. -/
def SpriteOverCell (s : State) (x y n : Nibble) (lit : Bool) : Prop :=
  ∃ py px, py < 32 ∧ px < 64 ∧ s.fb.cell py px = lit ∧ drawnBit s x y n py px = true

theorem completed_drw_cell (s : State) (x y n : Nibble) {py px : Nat} (hy : py < 32) (hx : px < 64) :
    (completed (.drw x y n) s).fb.cell py px = (s.fb.cell py px ^^ drawnBit s x y n py px) :=
  drawSprite_cell _ _ _ _ _ _ _ _ hy hx

theorem completed_drw_flag (s : State) (x y n : Nibble) :
    (completed (.drw x y n) s).reg flagReg =
      flagByte (drawSprite s.mem s.i.toNat (originY (s.reg y)) (originX (s.reg x)) n.toNat s.fb).2 :=
  State.reg_setReg_self _ flagReg _

theorem completed_drw_flag_eq_one_iff (s : State) (x y n : Nibble) :
    (completed (.drw x y n) s).reg flagReg = 1#8 ↔ SpriteOverCell s x y n true := by
  rw [completed_drw_flag, flagByte_eq_one_iff]
  exact drawSprite_hit _ _ _ _ _ _

theorem completed_drw_flag_eq_zero_iff (s : State) (x y n : Nibble) :
    (completed (.drw x y n) s).reg flagReg = 0#8 ↔ ¬ SpriteOverCell s x y n true := by
  rw [completed_drw_flag, flagByte_eq_zero_iff]
  exact not_congr (drawSprite_hit _ _ _ _ _ _)

/-- Settles O42: DRW completes, and of the registers it writes VF alone, with the collision. -/
theorem drawTogglesTheSpritesCells : Obligations.DrawTogglesTheSpritesCells := by
  unfold Obligations.DrawTogglesTheSpritesCells
  intro s x y n hin
  exact ⟨_, exec_drw_eq_completed x y hin, fun _ _ hy hx => completed_drw_cell s x y n hy hx,
    (completed_drw_flag_eq_one_iff s x y n).2, (completed_drw_flag_eq_zero_iff s x y n).2,
    fun _ hr => State.reg_setReg_of_ne _ _ hr, rfl, completed_frame (.drw x y n) s⟩

/-! ### Two equal draws (R182 (g)) -/

/-- With neither x nor y being F, the first draw leaves the sprite of the second where it was: only VF, the screen and
PC have changed. -/
theorem drawnBit_completed_drw (s : State) {x y n : Nibble} (hx : x ≠ flagReg) (hy : y ≠ flagReg) :
    drawnBit (completed (.drw x y n) s) x y n = drawnBit s x y n := by
  have hregx : (completed (.drw x y n) s).reg x = s.reg x := State.reg_setReg_of_ne _ _ hx
  have hregy : (completed (.drw x y n) s).reg y = s.reg y := State.reg_setReg_of_ne _ _ hy
  funext py px
  unfold drawnBit
  rw [hregx, hregy]
  rfl

/-- The same sprite bit, exclusive-ored twice, is gone; outside the screen there is no cell. -/
theorem completed_drw_drw_cell (s : State) {x y n : Nibble} (hx : x ≠ flagReg) (hy : y ≠ flagReg) (py px : Nat) :
    (completed (.drw x y n) (completed (.drw x y n) s)).fb.cell py px = s.fb.cell py px := by
  by_cases hscreen : py < 32 ∧ px < 64
  · obtain ⟨hpy, hpx⟩ := hscreen
    rw [completed_drw_cell _ x y n hpy hpx, completed_drw_cell s x y n hpy hpx, drawnBit_completed_drw s hx hy,
      Bool.xor_assoc, Bool.xor_self, Bool.xor_false]
  · rw [Framebuffer.cell_outside _ _ _ hscreen, Framebuffer.cell_outside _ _ _ hscreen]

/-- Under a set bit the second draw finds a 1 exactly where the first one found a 0. -/
theorem spriteOverCell_completed_drw_iff (s : State) {x y n : Nibble} (hx : x ≠ flagReg) (hy : y ≠ flagReg) :
    SpriteOverCell (completed (.drw x y n) s) x y n true ↔ SpriteOverCell s x y n false := by
  unfold SpriteOverCell
  rw [drawnBit_completed_drw s hx hy]
  refine exists₂_congr fun py px => and_congr_right fun hpy => and_congr_right fun hpx =>
    and_congr_left fun hbit => ?_
  rw [completed_drw_cell s x y n hpy hpx, hbit, Bool.xor_true, Bool.not_eq_true']

/-- Settles O44: the second draw, like the first, completes; it toggles the same cells back and collides where the first
one set a cell. -/
theorem drawingTwiceRestoresTheScreen : Obligations.DrawingTwiceRestoresTheScreen := by
  unfold Obligations.DrawingTwiceRestoresTheScreen
  intro s x y n hx hy hin
  exact ⟨_, _, exec_drw_eq_completed x y hin, exec_drw_eq_completed x y hin, completed_drw_drw_cell s hx hy,
    (completed_drw_flag_eq_one_iff _ x y n).trans (spriteOverCell_completed_drw_iff s hx hy)⟩

/-- A sprite of one set bit at I, and the cell under that bit already 1. -/
def litUnderSprite : State :=
  ((State.reset.setI 0x300#16).setMem (State.reset.mem.writeList 0x300 [0x80#8])).setFb
    (Framebuffer.clear.setCell 0 0 true)

/-- The first draw turns the cell off and collides, the second turns it on and does not. -/
theorem completed_drw_drw_litUnderSprite_flag :
    (completed (.drw 0#4 0#4 1#4) (completed (.drw 0#4 0#4 1#4) litUnderSprite)).reg 0xF#4 = 0#8 := by
  decide

/-- Refutes O45: the cell under the sprite's only set bit was 1 before both draws, and VF is 0 after them. -/
theorem not_secondDrawAlwaysCollides : ¬ Obligations.SecondDrawAlwaysCollides := by
  unfold Obligations.SecondDrawAlwaysCollides
  intro h
  have hone := h litUnderSprite _ _ 0#4 0#4 1#4 (by decide) (by decide) (by decide)
    (exec_drw_eq_completed _ _ (.inr (by decide))) (exec_drw_eq_completed _ _ (.inr (by decide)))
    ⟨0, 0, by decide, by decide, by decide⟩
  rw [completed_drw_drw_litUnderSprite_flag] at hone
  exact absurd hone (by decide)

end Sys2Proof.Machine

/-! ## Keypad and timers (44_keypad_timers.md)

SKP and SKNP, LD Vx,K with and without a release edge, and the transfers of the timers. -/

namespace Sys2Proof.Machine

/-! ### Key skips (R190, R191, R196) -/

/-- The low 4 bits of V[x], as a remainder. -/
theorem keyOperand_eq_ofNat_mod (b : Byte) : keyOperand b = BitVec.ofNat 4 (b.toNat % 16) := by
  apply BitVec.eq_of_toNat_eq
  rw [keyOperand, BitVec.toNat_setWidth, BitVec.toNat_ofNat]
  exact (Nat.mod_mod _ _).symm

theorem State.skipIf_not_pc (s : State) (c : Bool) :
    (s.skipIf (!c)).pc = if c then s.pc + 2#16 else s.pc + 4#16 := by
  rw [State.skipIf_pc_eq]
  cases c <;> rfl

/-- Settles O46: both skips complete, each with its own condition on the key that V[x] names. -/
theorem keySkips : Obligations.KeySkips := by
  unfold Obligations.KeySkips
  intro s x
  rw [← keyOperand_eq_ofNat_mod]
  exact ⟨⟨_, exec_eq_completed rfl, s.skipIf_pc_eq _, completed_frame (.skp x) s⟩,
    ⟨_, exec_eq_completed rfl, s.skipIf_not_pc _, completed_frame (.sknp x) s⟩⟩

/-! ### One attempt of LD Vx,K (R192) -/

/-- The snapshot is refreshed in either case. -/
theorem completed_ldVxK_prevKey (s : State) (x j : Nibble) : (completed (.ldVxK x) s).prevKey j = s.key j := by
  cases hk : s.releasedKey with
  | some k => rw [completed_ldVxK_some x hk]; rfl
  | none => rw [completed_ldVxK_none x hk]; rfl

/-- A key index fits in the byte that V[x] receives. -/
theorem completed_ldVxK_reg_toNat {s : State} {k : Nibble} (x : Nibble) (h : s.releasedKey = some k) :
    ((completed (.ldVxK x) s).reg x).toNat = k.toNat := by
  rw [completed_ldVxK_some x h, State.reg_setReg_self]
  exact BitVec.toNat_setWidth_of_le (by decide)

theorem completed_ldVxK_pc_of_some {s : State} {k : Nibble} (x : Nibble) (h : s.releasedKey = some k) :
    (completed (.ldVxK x) s).pc = s.pc + 2#16 := by
  rw [completed_ldVxK_some x h]
  rfl

/-- Settles O47: such a key is the one the scan finds, and with it the attempt completes the wait. -/
theorem keyWaitCompletesOnRelease : Obligations.KeyWaitCompletesOnRelease := by
  unfold Obligations.KeyWaitCompletesOnRelease
  intro s x k hdown hup hlower
  have hk : s.releasedKey = some k := (s.releasedKey_eq_some k).2 ⟨hdown, hup, hlower⟩
  exact ⟨_, exec_eq_completed rfl, completed_ldVxK_reg_toNat x hk,
    fun _ hr => completed_reg (.ldVxK x) s (by simpa [mayWrite] using hr), completed_ldVxK_prevKey s x,
    completed_ldVxK_pc_of_some x hk, completed_frame (.ldVxK x) s⟩

/-- Without a release edge the attempt refreshes the snapshot and does nothing else (R192 (a)). -/
theorem exec_ldVxK_of_no_release {s : State} (x : Nibble)
    (h : ∀ k : Nibble, ¬ (s.prevKey k = true ∧ s.key k = false)) :
    exec (.ldVxK x) s = .next (s.setPrevKeys s.keys) := by
  rw [exec_ldVxK_none x (s.releasedKey_eq_none.2 h), State.setPc_advance_sub]

/-- Settles O48: the attempt answers the state with the snapshot refreshed. -/
theorem keyWaitRepeatsWithoutRelease : Obligations.KeyWaitRepeatsWithoutRelease := by
  unfold Obligations.KeyWaitRepeatsWithoutRelease
  exact fun s x h => ⟨_, exec_ldVxK_of_no_release x h, rfl, fun _ => rfl, Frame.refl.setPrevKeys _ (by decide)⟩

/-! ### Two attempts with a release between them (R192 (b), 60_exceptions.md R222) -/

/-- When the snapshot is the live flags, releasing one key that is down makes the only release edge. -/
theorem releasedKey_setKey_of_snapshot_fresh {t : State} {k : Nibble} (hfresh : ∀ j, t.prevKey j = t.key j)
    (hdown : t.key k = true) : (setKey k false t).releasedKey = some k := by
  have hkey (j : Nibble) : (setKey k false t).key j = if j = k then false else t.key j := t.key_setKeys_set k j false
  refine (State.releasedKey_eq_some _ k).2 ⟨(hfresh k).trans hdown, (hkey k).trans (if_pos rfl), ?_⟩
  rintro j hj ⟨hprev, hup⟩
  have hne : j ≠ k := fun he => absurd hj (he ▸ lt_irrefl _)
  have hlive : t.key j = true := (hfresh j).symm.trans hprev
  rw [hkey, if_neg hne, hlive] at hup
  cases hup

/-- Settles O49: the first attempt makes the snapshot the live flags, so the release is the one edge the second attempt
finds. -/
theorem keySeenDownThenReleasedCompletesTheWait : Obligations.KeySeenDownThenReleasedCompletesTheWait := by
  unfold Obligations.KeySeenDownThenReleasedCompletesTheWait
  intro s x k hnone hdown
  have hk : (setKey k false (s.setPrevKeys s.keys)).releasedKey = some k :=
    releasedKey_setKey_of_snapshot_fresh (fun _ => rfl) hdown
  exact ⟨_, _, exec_ldVxK_of_no_release x hnone, rfl, exec_eq_completed rfl, completed_ldVxK_reg_toNat x hk,
    completed_ldVxK_pc_of_some x hk⟩

/-! ### Timers (R193 to R195) -/

/-- Settles O50: the three meet no fault; the first writes DT into V[x] alone, the others V[x] into one timer. -/
theorem timerTransfers : Obligations.TimerTransfers := by
  unfold Obligations.TimerTransfers
  exact fun s x =>
    ⟨⟨_, exec_eq_completed rfl, s.advance_setReg_effect x s.dt⟩,
      ⟨_, exec_eq_completed rfl, rfl, rfl, completed_frame (.ldDTVx x) s⟩,
      ⟨_, exec_eq_completed rfl, rfl, rfl, completed_frame (.ldSTVx x) s⟩⟩

end Sys2Proof.Machine

/-! ## Steps, faults and the host's operations (60_exceptions.md)

What a step does in each of its four cases, and what it reports there; the faults; and the operations of the host, none
of which can stop a core that has been reset. -/

namespace Sys2Proof.Machine

/-! ### A step, case by case (R200, R210) -/

section
variable {s : State}

theorem State.halted_eq_true {f : Fault} (h : s.fault = some f) : s.halted = true := by rw [State.halted, h]; rfl

theorem State.halted_eq_false (h : s.fault = none) : s.halted = false := by rw [State.halted, h]; rfl

/-- A halted core stays as it is. -/
theorem step_of_halted (h : s.halted = true) : step s = .next s := if_pos h

/-- A fetch beyond memory records the fault and changes nothing else. -/
theorem step_of_fetch_beyond (hrun : s.halted = false) (hpc : 0xFFE < s.pc.toNat) :
    step s = .next (s.setFault (some (.outOfBounds (BitVec.ofNat 16 (max s.pc.toNat 0x1000))))) := by
  rw [step, hrun, if_neg Bool.false_ne_true, inRange_bad (by decide) (by omega)]

/-- Inside memory a running core runs the fetched word. -/
theorem step_of_fetch_inside (hrun : s.halted = false) (hpc : s.pc.toNat ≤ 0xFFE) :
    step s = runWord s.fetchWord s := by
  rw [step, hrun, if_neg Bool.false_ne_true, inRange_ok (.inr (by omega))]

/-- An unknown word is passed over (R203). -/
theorem runWord_of_error {w : Word} {e : DecodeError} (hd : decodeWord w = .error e) :
    runWord w s = .next s.advance := by
  simp only [runWord, hd, unknownWord]

/-! ### The UnknownInstruction event (R203) -/

theorem reportOf_of_halted (h : s.halted = true) : reportOf s = none := if_pos h

theorem reportOf_of_fetch_beyond (hpc : 0xFFE < s.pc.toNat) : reportOf s = none := by
  have hbad : ¬ rangeOk s.pc 2 = true := by rw [rangeOk_iff]; omega
  unfold reportOf
  rw [if_neg hbad, ite_self]

theorem reportOf_of_ok {i : Instr} (hd : decodeWord s.fetchWord = .ok i) : reportOf s = none := by
  simp only [reportOf, hd, ite_self]

theorem reportOf_of_error {e : DecodeError} (hrun : s.halted = false) (hpc : s.pc.toNat ≤ 0xFFE)
    (hd : decodeWord s.fetchWord = .error e) : reportOf s = some ⟨s.fetchWord, s.pc⟩ := by
  have hok : rangeOk s.pc 2 = true := (rangeOk_iff _ _).2 (.inr (by omega))
  unfold reportOf
  rw [hrun, if_neg Bool.false_ne_true, if_pos hok, hd]

end

/-! ### No step stops (R202) -/

/-- An instruction completes or records its fault; both are next states. -/
theorem exec_next (i : Instr) (s : State) : ∃ t, exec i s = .next t := by
  cases hf : faultOf i s with
  | none => exact ⟨_, exec_eq_completed hf⟩
  | some f => exact ⟨_, exec_eq_setFault hf⟩

theorem runWord_next (w : Word) (s : State) : ∃ t, runWord w s = .next t := by
  cases hd : decodeWord w with
  | ok i => simpa only [runWord, hd] using exec_next i s
  | error e => exact ⟨_, runWord_of_error hd⟩

theorem step_next (s : State) : ∃ t, step s = .next t := by
  cases hhalt : s.halted with
  | true => exact ⟨s, step_of_halted hhalt⟩
  | false =>
    obtain hin | hout := le_or_gt s.pc.toNat 0xFFE
    · rw [step_of_fetch_inside hhalt hin]
      exact runWord_next _ s
    · exact ⟨_, step_of_fetch_beyond hhalt hout⟩

/-- Settles O11: in each of its cases a step answers a next state. -/
theorem stepAlwaysAnswersANextState : Obligations.StepAlwaysAnswersANextState := by
  unfold Obligations.StepAlwaysAnswersANextState
  exact step_next

/-! ### What a step does (R200, R203, R204) -/

/-- Settles O7: the step is the execution of the decoded instruction, and a word that decodes is not reported. -/
theorem stepRunsTheDecodedInstruction : Obligations.StepRunsTheDecodedInstruction := by
  unfold Obligations.StepRunsTheDecodedInstruction
  exact fun _ _ hfault hpc hd _ => ⟨step_eq_exec hfault hpc hd, reportOf_of_ok hd⟩

/-- Settles O8: the step answers the state with PC advanced, and the report is the fetched word and PC. -/
theorem unknownWordIsReportedNoOp : Obligations.UnknownWordIsReportedNoOp := by
  unfold Obligations.UnknownWordIsReportedNoOp
  intro s e hfault hpc hd
  have hrun := State.halted_eq_false hfault
  exact ⟨s.advance, (step_of_fetch_inside hrun hpc).trans (runWord_of_error hd), rfl, hfault,
    Frame.refl.advance (by decide), reportOf_of_error hrun hpc hd⟩

/-- Settles O9: the fetch's range check records max(PC, 0x1000), and no word is there to report. -/
theorem fetchPastTheEndFaults : Obligations.FetchPastTheEndFaults := by
  unfold Obligations.FetchPastTheEndFaults
  exact fun _ hfault hpc => ⟨step_of_fetch_beyond (State.halted_eq_false hfault) hpc, reportOf_of_fetch_beyond hpc⟩

/-- Settles O10: one step keeps a halted core, so every run does. -/
theorem haltedCoreStaysAsItIs : Obligations.HaltedCoreStaysAsItIs := by
  unfold Obligations.HaltedCoreStaysAsItIs
  intro s f n hfault
  have hhalt := State.halted_eq_true hfault
  exact ⟨run_eq_of_step_eq (M := Sys2Proof.core) (step_of_halted hhalt) n, reportOf_of_halted hhalt⟩

/-- Settles O12: a halted core, an unknown word and an instruction that completes leave the record as it was; the fetch
beyond memory and an instruction that faults write the record alone. -/
theorem faultingStepChangesOnlyTheRecord : Obligations.FaultingStepChangesOnlyTheRecord := by
  unfold Obligations.FaultingStepChangesOnlyTheRecord
  intro s t hs hne
  obtain ⟨-, rfl⟩ | ⟨-, -, rfl⟩ | ⟨-, -, ⟨_, -, rfl⟩ | ⟨i, -, he⟩⟩ := step_cases hs
  · exact absurd rfl hne
  · rfl
  · exact absurd s.advance_fault hne
  · obtain ⟨-, rfl⟩ | ⟨f, -, rfl⟩ := exec_cases he
    · exact absurd (completed_fault i s) hne
    · rfl

/-! ### Faults of the execute phase (R205 to R207) -/

/-- Settles O14: with a fault of `faultOf` every instruction answers the state with that fault recorded. -/
theorem everyExecuteFaultIsPrecise : Obligations.EveryExecuteFaultIsPrecise := by
  unfold Obligations.EveryExecuteFaultIsPrecise
  exact fun _ _ _ hf => exec_eq_setFault hf

/-- Settles O23: a full stack is the fault of CALL, an empty one the fault of RET. -/
theorem stackFaults : Obligations.StackFaults := by
  unfold Obligations.StackFaults
  exact ⟨fun _ nnn hsp => exec_eq_setFault (i := .call nnn) (if_pos hsp),
    fun _ hsp => exec_eq_setFault (i := .ret) (if_pos hsp)⟩

/-! ### Step with a random byte (R201) -/

/-- A Step with a byte answers what the step with that byte on the random input does, with the input emptied. -/
theorem stepWith_of_step {b : Byte} {s t : State} (h : step (s.setRndIn (some b)) = .next t) :
    stepWith b s = .next (t.setRndIn none) := by
  simp only [stepWith, h]

theorem stepWith_next (b : Byte) (s : State) : ∃ t, stepWith b s = .next t := by
  obtain ⟨t, ht⟩ := step_next (s.setRndIn (some b))
  exact ⟨_, stepWith_of_step ht⟩

/-- Settles O34: the step is RND's, with b on the input; RND uses that byte and draws no free one. -/
theorem stepInputReachesRnd : Obligations.StepInputReachesRnd := by
  unfold Obligations.StepInputReachesRnd
  intro s b x kk hfault hpc hd
  have hstep : step (s.setRndIn (some b)) = .next (completed (.rnd x kk) (s.setRndIn (some b))) :=
    (step_eq_exec (s := s.setRndIn (some b)) hfault hpc hd).trans (exec_eq_completed rfl)
  exact ⟨_, stepWith_of_step hstep, State.reg_setReg_self _ x (b &&& kk), rfl, rfl⟩

/-! ### TickTimers and SetKey (R221, R222) -/

theorem tickDown_toNat (b : Byte) : (tickDown b).toNat = b.toNat - 1 := by
  unfold tickDown
  split
  case isTrue hzero => rw [hzero]; rfl
  case isFalse hpos =>
    have hone : 1 ≤ b.toNat := Nat.one_le_iff_ne_zero.2 fun h => hpos (BitVec.eq_of_toNat_eq h)
    exact BitVec.toNat_sub_of_le hone

theorem Frame.setKeys {ps : List Part} {s t : State} (h : Frame ps s t) (k : Vector Bool 16) (hp : Part.keys ∈ ps) :
    Frame ps s (t.setKeys k) := by
  intro p hn
  cases p with
  | keys => exact absurd hp hn
  | _ => exact h _ hn

/-- Settles O51: the tick writes each timer, floored at zero, and nothing else. -/
theorem tickCountsDownToZero : Obligations.TickCountsDownToZero := by
  unfold Obligations.TickCountsDownToZero
  exact fun s => ⟨tickTimers s, rfl, tickDown_toNat s.dt, tickDown_toNat s.st,
    (Frame.refl.setDt _ (by decide)).setSt _ (by decide)⟩

theorem key_setKey (k j : Nibble) (pressed : Bool) (s : State) :
    (setKey k pressed s).key j = if j = k then pressed else s.key j :=
  s.key_setKeys_set k j pressed

/-- Settles O52: SetKey writes one entry of the live flags and nothing else. -/
theorem setKeyWritesOneFlag : Obligations.SetKeyWritesOneFlag := by
  unfold Obligations.SetKeyWritesOneFlag
  exact fun s k pressed => ⟨setKey k pressed s, rfl, (key_setKey k k pressed s).trans (if_pos rfl),
    fun j hj => (key_setKey k j pressed s).trans (if_neg hj), Frame.refl.setKeys _ (by decide)⟩

/-! ### LoadProgram (R223, R208) -/

theorem imageFits_iff (image : List Byte) : imageFits image = true ↔ image.length ≤ 3584 := decide_eq_true_iff

theorem applyOp_loadProgram_of_fits {image : List Byte} (s : State) (h : image.length ≤ 3584) :
    applyOp (.loadProgram image) (some s) = .next (some (loadImage image s), .loaded) :=
  if_pos ((imageFits_iff image).2 h)

theorem applyOp_loadProgram_of_too_long {image : List Byte} (s : State) (h : 3584 < image.length) :
    applyOp (.loadProgram image) (some s) = .next (some s, .loadError) :=
  if_neg fun hfits => absurd ((imageFits_iff image).1 hfits) (Nat.not_le.2 h)

/-- Settles O53: an image that fits ends inside memory, so each of its bytes is written at its place and no other byte
is; a longer one is refused. -/
theorem loadProgramCopiesOrRefuses : Obligations.LoadProgramCopiesOrRefuses := by
  unfold Obligations.LoadProgramCopiesOrRefuses
  intro s image
  refine ⟨fun hfits => ?_, applyOp_loadProgram_of_too_long s⟩
  have hroom : 0x200 + image.length ≤ 4096 := by omega
  exact ⟨loadImage image s, applyOp_loadProgram_of_fits s hfits, fun _ hk => s.mem.read_writeList_add hroom hk,
    fun _ ha => Memory.read_writeList_outside image s.mem 0x200 _ (by omega), Frame.refl.setMem _ (by decide)⟩

/-! ### The host's reads (R224, R225, R209) -/

theorem Framebuffer.length_cells (f : Framebuffer) : f.cells.length = 2048 := by
  rw [Framebuffer.cells, List.length_map, List.length_range]

/-- The linear order of the cells: row by row, 64 to a row (43_display.md R181). -/
theorem Framebuffer.getElem?_cells (f : Framebuffer) {y x : Nat} (hy : y < 32) (hx : x < 64) :
    f.cells[64 * y + x]? = some (f.cell y x) := by
  have hrow : (64 * y + x) / 64 = y := by omega
  have hcol : (64 * y + x) % 64 = x := by omega
  rw [Framebuffer.cells, List.getElem?_map, List.getElem?_range (by omega), Option.map_some, hrow, hcol]

/-- Settles O55: both reads answer the same core, the one with its cells, the other with the code of its record. -/
theorem hostReadsChangeNothing : Obligations.HostReadsChangeNothing := by
  unfold Obligations.HostReadsChangeNothing
  exact fun s =>
    ⟨⟨s.fb.cells, rfl, s.fb.length_cells, fun _ _ => s.fb.getElem?_cells⟩,
      ⟨faultCode s.fault, rfl, congrArg faultCode, fun _ => congrArg faultCode, congrArg faultCode,
        congrArg faultCode⟩⟩

/-! ### No sequence of operations stops (R202, R204, R220) -/

/-- An operation on a core that has been reset answers such a core. -/
theorem applyOp_some_next (op : HostOp) (s : State) : ∃ t r, applyOp op (some s) = .next (some t, r) := by
  cases op with
  | loadProgram image =>
    obtain hfits | hlong := le_or_gt image.length 3584
    · exact ⟨_, _, applyOp_loadProgram_of_fits s hfits⟩
    · exact ⟨_, _, applyOp_loadProgram_of_too_long s hlong⟩
  | step rnd =>
    obtain ⟨t, ht⟩ := stepWith_next rnd s
    exact ⟨t, .stepped (reportOf s), by simp only [applyOp, applyAfterReset, ht]⟩
  | _ => exact ⟨_, _, rfl⟩

/-- A sequence goes through when its first operation does and the rest does from there. -/
theorem runOps_cons_of_next {op : HostOp} {ops : List HostOp} {c c' c'' : Powered} {r : Reply} {rs : List Reply}
    (ha : applyOp op c = .next (c', r)) (hr : runOps ops c' = .next (c'', rs)) :
    runOps (op :: ops) c = .next (c'', r :: rs) := by
  simp only [runOps, ha, hr]

theorem runOps_some_next (ops : List HostOp) : ∀ s : State, ∃ t rs, runOps ops (some s) = .next (some t, rs) := by
  induction ops with
  | nil => exact fun s => ⟨s, [], rfl⟩
  | cons op ops ih =>
    intro s
    obtain ⟨u, r, ha⟩ := applyOp_some_next op s
    obtain ⟨t, rs, hr⟩ := ih u
    exact ⟨t, r :: rs, runOps_cons_of_next ha hr⟩

/-- Settles O57: Reset answers a core, and from a core that has been reset every sequence goes through. -/
theorem noOperationStopsAfterReset : Obligations.NoOperationStopsAfterReset := by
  unfold Obligations.NoOperationStopsAfterReset
  intro ops
  obtain ⟨t, rs, hr⟩ := runOps_some_next ops State.reset
  exact ⟨t, .done :: rs, runOps_cons_of_next (op := .reset) (c := none) rfl hr⟩

end Sys2Proof.Machine

/-! ## Reset and hazards (70_reset_and_hazards.md)

When a step of a running core meets no fault, and the core before its first Reset. -/

namespace Sys2Proof.Machine

/-! ### The steps that meet no fault (R253) -/

/-- On a running core an instruction leaves the record empty exactly when `faultOf` gives it no fault. -/
theorem fault_eq_none_iff_of_exec {i : Instr} {s t : State} (hfault : s.fault = none) (he : exec i s = .next t) :
    t.fault = none ↔ faultOf i s = none := by
  obtain ⟨hf, rfl⟩ | ⟨f, hf, rfl⟩ := exec_cases he
  · exact iff_of_true ((completed_fault i s).trans hfault) hf
  · exact iff_of_false (Option.some_ne_none f) (Option.ne_none_iff_exists'.2 ⟨f, hf⟩)

/-- Inside memory an unknown word is safe. -/
theorem stepSafe_of_error {s : State} {e : DecodeError} (hpc : s.pc.toNat ≤ 0xFFE)
    (hd : decodeWord s.fetchWord = .error e) : stepSafe s :=
  ⟨hpc, fun _ hi => nomatch hd.symm.trans hi⟩

/-- Inside memory an instruction is safe exactly when `faultOf` gives it no fault. -/
theorem stepSafe_iff_of_ok {s : State} {i : Instr} (hpc : s.pc.toNat ≤ 0xFFE)
    (hd : decodeWord s.fetchWord = .ok i) : stepSafe s ↔ faultOf i s = none := by
  refine ⟨fun hsafe => hsafe.2 i hd, fun hf => ⟨hpc, fun j hj => ?_⟩⟩
  obtain rfl := Except.ok.inj (hd.symm.trans hj)
  exact hf

/-- The step of a running core leaves the record empty exactly when it is safe: a fetch beyond memory is neither, an
unknown word is both, and an instruction is each of them exactly when `faultOf` gives it no fault. -/
theorem fault_eq_none_iff_of_step {s t : State} (hfault : s.fault = none) (hs : step s = .next t) :
    t.fault = none ↔ stepSafe s := by
  obtain ⟨hhalt, -⟩ | ⟨-, hpc, rfl⟩ | ⟨-, hpc, ⟨e, hd, rfl⟩ | ⟨i, hd, he⟩⟩ := step_cases hs
  · rw [State.halted_eq_false hfault] at hhalt
    cases hhalt
  · exact iff_of_false (Option.some_ne_none _) fun hsafe => Nat.not_le_of_lt hpc hsafe.1
  · exact iff_of_true hfault (stepSafe_of_error hpc hd)
  · exact (fault_eq_none_iff_of_exec hfault he).trans (stepSafe_iff_of_ok hpc hd).symm

/-- Settles O13: every step answers a next state, and in each case of a step the record stays empty exactly when the
step is safe. -/
theorem noFaultExactlyWhenTheStepIsSafe : Obligations.NoFaultExactlyWhenTheStepIsSafe := by
  unfold Obligations.NoFaultExactlyWhenTheStepIsSafe
  intro s hfault
  obtain ⟨t, ht⟩ := step_next s
  exact ⟨t, ht, fault_eq_none_iff_of_step hfault ht⟩

/-! ### Before the first Reset (R241) -/

/-- Settles O56: without a core the operations other than Reset have one answer, by name. -/
theorem nothingRunsBeforeReset : Obligations.NothingRunsBeforeReset := by
  unfold Obligations.NothingRunsBeforeReset
  intro op hop
  cases op with
  | reset => exact absurd rfl hop
  | _ => rfl

end Sys2Proof.Machine
